-- ==== Sys2Proof/Word.lean ====
section
/-! DEFINITION. The word types of SU-CORE: limbs, bus words, bus offsets, big registers and register numbers. -/

namespace Sys2Proof

/-- A 32-bit word: one limb of a big register (00_scope R6), one bus word (20_memory R51), one command word
(30_encoding R80). -/
abbrev Word := BitVec 32

/-- Eight bits: a byte lane of a bus word or a byte of the host's serialisation (20_memory R53, R54). -/
abbrev Byte := BitVec 8

/-- A byte offset of the register-bus port (20_memory R51). -/
abbrev Addr := BitVec 16

/-- A big register: its limbs, limb 0 (least significant) first (00_scope R10, 10_state R21). -/
abbrev Big := List Word

/-- The number of a big register, R0 to R15 (10_state R21, 30_encoding R82). -/
abbrev RegIdx := Fin 16

end Sys2Proof
end

