-- ==== Sys2Proof/Config.lean ====
section
/-! DEFINITION. What an instance of SU-CORE fixes, and the one free value of the model. -/

namespace Sys2Proof

namespace Config

/-- The limb count of the instance that `State.reset` is. DESIGN CHOICE (log entry 1), unsafe: 00_scope R5 leaves LIMBS
open between 1 and 128. Nothing but `State.reset` uses this value: the machine reads the limb count from its state, so
that a statement about every state is about every instance. -/
def limbs : Nat := 8

/-- The least and the largest LIMBS of any instance (00_scope R5). -/
def minLimbs : Nat := 1
@[inherit_doc minLimbs] def maxLimbs : Nat := 128

/-- ID, a constant (10_state R33). -/
def idWord : Word := 0x534C0001#32

/-- PARAM.NREG, the number of big registers (10_state R34). -/
def nReg : Nat := 16

/-- FREE VALUE (log entry 3): how many inputs come before the engine step while both are ready. The spec admits every order
(20_memory R63, 60_exceptions R172) and says of the wait for the engine step only that it is finite
(70_reset_and_hazards R204), so this is a number with no body: nothing can be proved of its value. -/
opaque freeDelay : Nat → Nat

end Config

end Sys2Proof
end

