-- ==== Sys2Proof/Syntax.lean ====
section
/-! DEFINITION. The twelve commands of SU-CORE, one constructor per row of the opcode table (30_encoding R85). -/

namespace Sys2Proof

/-- A decoded command. Operands stand in the order of the assembler syntax (30_encoding R93), destinations first; a point
operand is the number of the even register of its pair (30_encoding R83). -/
inductive Instr where
  /-- `ADD Rd, Ra, Rb` (40_integer R101) -/
  | add (rd rs1 rs2 : RegIdx)
  /-- `SUB Rd, Ra, Rb` (40_integer R102) -/
  | sub (rd rs1 rs2 : RegIdx)
  /-- `MUL Rd, Ra, Rb` (40_integer R103) -/
  | mul (rd rs1 rs2 : RegIdx)
  /-- `MULW Rlo, Rhi, Ra, Rb` (40_integer R104) -/
  | mulw (rd rx rs1 rs2 : RegIdx)
  /-- `DIVREM Rq, Rr, Ra, Rb` (40_integer R105) -/
  | divrem (rd rx rs1 rs2 : RegIdx)
  /-- `RADD Rd, Ra, Rb` (41_ring R122) -/
  | radd (rd rs1 rs2 : RegIdx)
  /-- `RSUB Rd, Ra, Rb` (41_ring R123) -/
  | rsub (rd rs1 rs2 : RegIdx)
  /-- `RMUL Rd, Ra, Rb` (41_ring R124) -/
  | rmul (rd rs1 rs2 : RegIdx)
  /-- `RINV Rd, Ra` (41_ring R125) -/
  | rinv (rd rs1 : RegIdx)
  /-- `PADD Rd, Rp, Rq` (42_curve R142) -/
  | padd (rd rs1 rs2 : RegIdx)
  /-- `PDBL Rd, Rp` (42_curve R143) -/
  | pdbl (rd rs1 : RegIdx)
  /-- `PMUL Rd, Rp, Rk` (42_curve R144) -/
  | pmul (rd rs1 rs2 : RegIdx)
  deriving DecidableEq, Repr

end Sys2Proof
end

