-- ==== Sys2Proof/Machine/State.lean ====
section
/-! DEFINITION. The state of one SU-CORE instance, the reasons a step can stop, and the reset state
(10_state R20, 70_reset_and_hazards R192). -/

namespace Sys2Proof.Machine

open Sys2Proof

/-- The error codes of STATUS.ERRCODE that SU-CORE produces (60_exceptions R161); codes 7 to 15 are never produced. -/
inductive ErrCode where
  | none
  | illegal
  | overflow
  | underflow
  | divzero
  | noinv
  | nopoint
  deriving DecidableEq, Repr

/-- The size in bytes of a bus transaction (20_memory R55). -/
inductive Size where
  | one
  | two
  | four
  deriving DecidableEq, Repr

/-- What the outside world does to SU-CORE: one whole transaction of the host (20_memory R56, R57), or the platform
driving the reset input to a level (70_reset_and_hazards R190). -/
inductive Input where
  | read (addr : Addr) (size : Size)
  | write (addr : Addr) (size : Size) (data : Word)
  | rst (level : Bool)
  deriving DecidableEq, Repr

/-- The answer of a transaction that completes without a bus error (20_memory R56, R57). -/
inductive Response where
  | data (w : Word)
  | ok
  deriving DecidableEq, Repr

/-- The state of the machine and of its surroundings.

`regs` to `pend` are the architectural state of 10_state R20 (CTRL holds only IE, STATUS only its defined fields: log
entry 9). `limbs` is the instance's parameter LIMBS (00_scope R5; log entry 1). `rstN` is the level of the reset input
(log entry 6). `inputs`, `responses`, `delay` and `draws` are the model's own (log entries 2, 3, 5). -/
structure State where
  /-- LIMBS, the number of limbs of every big register (00_scope R5) -/
  limbs     : Nat
  /-- R0..R15 (10_state R21) -/
  regs      : Vector Big 16
  /-- MOD (10_state R23) -/
  mod       : Big
  /-- CA (10_state R24) -/
  ca        : Big
  /-- CTRL.IE (10_state R28) -/
  ie        : Bool
  /-- STATUS.BUSY (10_state R29) -/
  busy      : Bool
  /-- STATUS.DONE (10_state R29) -/
  done      : Bool
  /-- STATUS.ERR (10_state R29) -/
  err       : Bool
  /-- STATUS.ERRCODE (10_state R29) -/
  errcode   : ErrCode
  /-- ERRCMD (10_state R32) -/
  errcmd    : Word
  /-- PEND (10_state R27) -/
  pend      : Word
  /-- the level of `rst_n` (70_reset_and_hazards R190) -/
  rstN      : Bool
  /-- what the outside world will do next, the oldest first (log entry 2) -/
  inputs    : List Input
  /-- the answers of the completed transactions, the oldest first (log entry 5) -/
  responses : List Response
  /-- how many more inputs come before the engine step while both are ready (log entry 3) -/
  delay     : Nat
  /-- how many delays have been drawn (log entry 3) -/
  draws     : Nat
  deriving DecidableEq, Repr

/-- Why the machine stops with a fault. -/
inductive Fault where
  /-- A transaction completed with BUSERR: wrong size, misaligned or unmapped (20_memory R55). Raised by a host
  transaction in `hostStep`. SU-CORE itself is unchanged; "a model treats a host access that gets BUSERR as a host fault"
  (20_memory R58). Safe: the machine stops where the hardware goes on (log entry 4). -/
  | busError
  deriving DecidableEq, Repr

/-- What the model gives no meaning to. -/
inductive Refusal where
  /-- An instruction with no meaning yet. Raised by an arm of `exec` only; no arm does. Safe. -/
  | notModelled (mnemonic : String)
  /-- A transaction while `rst_n` = 0, which "the platform must not issue" (70_reset_and_hazards R190; 93 item 13:
  "refuse"). Raised by `hostStep`. Safe: no behaviour is claimed (log entry 6). -/
  | transactionDuringReset
  deriving DecidableEq, Repr

/-- A big register of `n` limbs, all 0 (10_state R21). -/
def zeroBig (n : Nat) : Big := List.replicate n 0#32

/-- The reset state of an instance with `n` limbs (70_reset_and_hazards R192), with `rst_n` back at 1 and nothing to do.
The values of `inputs`, `responses`, `delay` and `draws` are DESIGN CHOICES (log entries 2, 3, 5). -/
def State.resetOf (n : Nat) : State where
  limbs := n
  regs := Vector.replicate 16 (zeroBig n)
  mod := zeroBig n
  ca := zeroBig n
  ie := false
  busy := false
  done := false
  err := false
  errcode := .none
  errcmd := 0#32
  pend := 0#32
  rstN := true
  inputs := []
  responses := []
  delay := 0
  draws := 0

/-- The machine right after reset: the instance with `Config.limbs` limbs (log entry 1). -/
def State.reset : State := State.resetOf Config.limbs

end Sys2Proof.Machine
end

