-- ==== Sys2Proof/Machine/Flags.lean ====
section
/-! DEFINITION. The flags of SU-CORE: the codes of STATUS.ERRCODE, the words CTRL, STATUS and PARAM read as, and the
interrupt output. No command sets an arithmetic flag (10_state R26). -/

namespace Sys2Proof.Machine

open Sys2Proof

/-- The four bits of an error code (60_exceptions R161). -/
def ErrCode.code : ErrCode → BitVec 4
  | .none => 0
  | .illegal => 1
  | .overflow => 2
  | .underflow => 3
  | .divzero => 4
  | .noinv => 5
  | .nopoint => 6

/-- What STATUS reads as: bits 31:12 are 0, then ERRCODE, five zeros, ERR, DONE, BUSY (10_state R29, 20_memory R56). -/
def State.statusWord (s : State) : Word :=
  0#20 ++ s.errcode.code ++ 0#5 ++ BitVec.ofBool s.err ++ BitVec.ofBool s.done ++ BitVec.ofBool s.busy

/-- What CTRL reads as: SRST and the reserved bits read 0 (10_state R28, 20_memory R56). -/
def State.ctrlWord (s : State) : Word := 0#30 ++ BitVec.ofBool s.ie ++ 0#1

/-- What PARAM reads as: NREG = 16 above LIMBS (10_state R34). -/
def State.paramWord (s : State) : Word := 0#8 ++ BitVec.ofNat 8 Config.nReg ++ BitVec.ofNat 16 s.limbs

/-- The interrupt output, a function of state (10_state R35, 60_exceptions R170). -/
def State.irq (s : State) : Bool := s.ie && s.done

end Sys2Proof.Machine
end

