-- ==== Sys2Proof/Machine/Operands.lean ====
section
/-! DEFINITION. The operand forms of the commands: the value of a big register and back, register operands, point pairs,
the implicit context operands, residues, and the host's byte forms of a register. -/

namespace Sys2Proof.Machine

open Sys2Proof

/-- The value of a big register: the sum of limb i times 2^(32·i) (00_scope R10). -/
def bigVal : Big → Nat
  | [] => 0
  | w :: ws => w.toNat + 2 ^ 32 * bigVal ws

/-- The `n` limbs of a value below 2^(32·n), limb 0 first (00_scope R10). -/
def bigOfNat : Nat → Nat → Big
  | 0, _ => []
  | n + 1, v => BitVec.ofNat 32 v :: bigOfNat n (v / 2 ^ 32)

/-- W, the width of a big register in bits (00_scope R6). -/
def State.width (s : State) : Nat := 32 * s.limbs

/-- 2^W: the values of a big register are below it (00_scope R10). -/
def State.bound (s : State) : Nat := 2 ^ s.width

/-- The limbs of big register Ri (30_encoding R82). -/
def State.reg (s : State) (i : RegIdx) : Big := s.regs[i.val]

/-- R[i] as an integer (00_scope R11). -/
def State.regVal (s : State) (i : RegIdx) : Nat := bigVal (s.reg i)

/-- MOD as an integer (00_scope R11). -/
def State.modVal (s : State) : Nat := bigVal s.mod

/-- CA as an integer (00_scope R11). -/
def State.caVal (s : State) : Nat := bigVal s.ca

/-- A point: a pair of coordinates (10_state R22). There is no point at infinity (42_curve R147). -/
structure Point where
  x : Nat
  y : Nat
  deriving DecidableEq, Repr

/-- The second register of the pair that starts at an even register (10_state R22). -/
def pairHigh (i : RegIdx) : RegIdx := i + 1

/-- The point in the pair (R[i], R[i+1]) (30_encoding R83). -/
def State.point (s : State) (i : RegIdx) : Point := ⟨s.regVal i, s.regVal (pairHigh i)⟩

/-- The mathematical residue in [0, m) of an integer, m > 0 (41_ring R121, R123). -/
def residue (v : Int) (m : Nat) : Nat := (v % (m : Int)).toNat

/-- Byte `j` of the host's big-endian array of a register of `n` limbs (20_memory R53). -/
def bigEndianByte (n v j : Nat) : Byte := BitVec.ofNat 8 (v / 2 ^ (8 * (4 * n - 1 - j)))

/-- The host's big-endian byte array of a register of `n` limbs, most significant byte first (20_memory R53). -/
def bigEndianBytes (n v : Nat) : List Byte := (List.range (4 * n)).map (bigEndianByte n v)

/-- Byte lane `k` of a bus word carries data[8k+7:8k] (20_memory R54). -/
def byteLane (w : Word) (k : Nat) : Byte := w.extractLsb' (8 * k) 8

end Sys2Proof.Machine
end

