-- ==== Sys2Proof/Machine/Ops.lean ====
section
/-! DEFINITION. The shared operations: writing registers, completing a command, raising a command error and returning
from one, accepting a command, and reset. -/

namespace Sys2Proof.Machine

open Sys2Proof

/-- Put limbs into big register Ri; no other register changes (10_state R21). -/
def State.setReg (i : RegIdx) (b : Big) (s : State) : State := { s with regs := s.regs.set i.val b }

/-- `R[i] <- v` for a value below 2^W (00_scope R11). -/
def State.writeReg (i : RegIdx) (v : Nat) (s : State) : State := s.setReg i (bigOfNat s.limbs v)

/-- The writes of a command, in order (10_state R37: "for (i, v) in writes: R[i] <- v"). -/
def State.writeRegs (ws : List (RegIdx × Nat)) (s : State) : State :=
  ws.foldl (fun t w => t.writeReg w.1 w.2) s

/-- What every completed command does last: PEND <- 0, BUSY <- 0, DONE <- 1 (10_state R37). -/
def State.complete (s : State) : State := { s with pend := 0#32, busy := false, done := true }

/-- A command that ends with Ok(writes) (10_state R37). -/
def succeed (ws : List (RegIdx × Nat)) (s : State) : Host.Outcome State Fault Refusal :=
  .next (s.writeRegs ws).complete

/-- Error entry (60_exceptions R163): ERR <- 1, ERRCODE <- code, ERRCMD <- PEND, then the command completes; no big
register is written. This is how SU-CORE takes an exception; no control transfer exists. -/
def State.raiseCmdError (code : ErrCode) (s : State) : State :=
  ({ s with err := true, errcode := code, errcmd := s.pend } : State).complete

/-- A command that ends with Err(code) (10_state R37, 60_exceptions R160). -/
def fail (code : ErrCode) (s : State) : Host.Outcome State Fault Refusal :=
  .next (s.raiseCmdError code)

/-- Error return (60_exceptions R167, 10_state R30): ERR <- 0, ERRCODE <- 0, ERRCMD <- 0. -/
def State.clearError (s : State) : State := { s with err := false, errcode := .none, errcmd := 0#32 }

/-- DONE <- 0 (10_state R30). -/
def State.clearDone (s : State) : State := { s with done := false }

/-- Command acceptance (10_state R36): skipped while ERR = 1 (60_exceptions R165), else latched, undecoded. -/
def State.accept (c : Word) (s : State) : State :=
  if s.err then { s with done := true } else { s with pend := c, busy := true, done := false }

/-- Every piece of architectural state gets its reset value (70_reset_and_hazards R191, R192). The parameter LIMBS, the
level of `rst_n` and the surroundings of SU-CORE are no part of that. -/
def State.toReset (s : State) : State :=
  { State.resetOf s.limbs with
    rstN := s.rstN, inputs := s.inputs, responses := s.responses, delay := s.delay, draws := s.draws }

/-- The platform drives `rst_n` to a level (70_reset_and_hazards R190): SU-CORE is in the reset state while it is 0 and
when it has returned to 1. Driving a 1 that is there already changes nothing. -/
def State.driveRst (level : Bool) (s : State) : State :=
  if level && s.rstN then s else { s.toReset with rstN := level }

/-- The engine step comes although an input is ready: the next delay is drawn (log entry 3). -/
def State.redraw (s : State) : State := { s with delay := Config.freeDelay s.draws, draws := s.draws + 1 }

/-- An input comes before the engine step: one less may follow (log entry 3). -/
def State.countDown (s : State) : State := { s with delay := s.delay - 1 }

/-- Record the answer of a completed transaction (log entry 5). -/
def State.respond (r : Response) (s : State) : State := { s with responses := s.responses ++ [r] }

/-- The oldest input has been taken (log entry 2). -/
def State.popInput (s : State) : State := { s with inputs := s.inputs.tail }

end Sys2Proof.Machine
end

