-- ==== Sys2Proof/Machine/Bus.lean ====
section
/-! DEFINITION. The register-bus port: the address map, the checks a transaction gets on arrival, the hold rule, reads
and writes (20_memory), and the host's side of a step. -/

namespace Sys2Proof.Machine

open Sys2Proof

/-- The registers that have a window in the address map (20_memory R52). -/
inductive Window where
  | gpr (r : RegIdx)
  | mod
  | ca
  deriving DecidableEq, Repr

/-- A mapped location: one 32-bit word (20_memory R51, R52). -/
inductive Loc where
  | id
  | param
  | ctrl
  | status
  | cmd
  | errcmd
  | limb (w : Window) (i : Nat)
  deriving DecidableEq, Repr

/-- The window in the `k`-th block of 0x200 bytes: R0..R15 from block 8 (0x1000) on, then MOD (0x3000), then CA (0x3200)
(20_memory R52). -/
def windowAt (k : Nat) : Option Window :=
  if h : 8 ≤ k ∧ k < 24 then some (.gpr ⟨k - 8, by omega⟩)
  else if k = 24 then some .mod
  else if k = 25 then some .ca
  else none

/-- The offset at which a window starts (20_memory R52). -/
def Window.base : Window → Nat
  | .gpr r => 0x1000 + 0x200 * r.val
  | .mod => 0x3000
  | .ca => 0x3200

/-- The control registers of the address map (20_memory R52). -/
def controlRegister (a : Nat) : Option Loc :=
  if a = 0x0000 then some .id
  else if a = 0x0004 then some .param
  else if a = 0x0008 then some .ctrl
  else if a = 0x000C then some .status
  else if a = 0x0010 then some .cmd
  else if a = 0x0014 then some .errcmd
  else none

/-- The address map for an instance of `n` limbs: what stands at an offset that is a multiple of 4, or nothing where it is
unmapped, a limb index at or beyond `n` included (20_memory R52, R59). -/
def locate (n : Nat) (a : Nat) : Option Loc :=
  if a < 0x1000 then controlRegister a
  else
    match windowAt (a / 0x200) with
    | none => none
    | some w => if a % 0x200 / 4 < n then some (.limb w (a % 0x200 / 4)) else none

/-- The location a transaction addresses, or nothing if it gets BUSERR: its size is not 4, its offset is not a multiple of
4, or its offset is unmapped (20_memory R55). -/
def target (n : Nat) (addr : Addr) (size : Size) : Option Loc :=
  if size = .four ∧ addr.toNat % 4 = 0 then locate n addr.toNat else none

/-- `held(addr)`: CMD and every window limb wait while BUSY = 1 (20_memory R60). -/
def Loc.isHeld : Loc → Bool
  | .cmd | .limb _ _ => true
  | .id | .param | .ctrl | .status | .errcmd => false

/-- The limbs of a window's register. -/
def State.window (s : State) : Window → Big
  | .gpr r => s.reg r
  | .mod => s.mod
  | .ca => s.ca

/-- Put limbs into a window's register. -/
def State.setWindow (w : Window) (b : Big) (s : State) : State :=
  match w with
  | .gpr r => s.setReg r b
  | .mod => { s with mod := b }
  | .ca => { s with ca := b }

/-- What a location reads as (20_memory R56); CMD is write-only and reads 0 (10_state R31). -/
def State.readLoc (s : State) : Loc → Word
  | .id => Config.idWord
  | .param => s.paramWord
  | .ctrl => s.ctrlWord
  | .status => s.statusWord
  | .cmd => 0#32
  | .errcmd => s.errcmd
  | .limb w i => (s.window w).getD i 0#32

/-- A write to CTRL: soft reset if SRST, else IE <- data[1] (10_state R28, 70_reset_and_hazards R191). -/
def State.writeCtrl (d : Word) (s : State) : State :=
  if d[0] then s.toReset else { s with ie := d[1] }

/-- A write to STATUS: data[2] clears the error state, then data[1] clears DONE (10_state R30). -/
def State.writeStatus (d : Word) (s : State) : State :=
  let s := if d[2] then s.clearError else s
  if d[1] then s.clearDone else s

/-- A write to a location (20_memory R57); read-only registers ignore it. -/
def State.writeLoc (l : Loc) (d : Word) (s : State) : State :=
  match l with
  | .id | .param | .errcmd => s
  | .ctrl => s.writeCtrl d
  | .status => s.writeStatus d
  | .cmd => s.accept d
  | .limb w i => s.setWindow w ((s.window w).set i d)

/-- How the port answers a transaction: BUSERR, "not yet" (the transaction is held and has had no effect), or completed
with an answer and a new state. -/
inductive BusAnswer where
  | buserr
  | hold
  | done (r : Response) (s : State)
  deriving DecidableEq, Repr

/-- A transaction that arrives now has to wait: it is a good one, at a held location, and BUSY = 1 (20_memory R60). A bad
transaction is never held (20_memory R55). -/
def State.holds (addr : Addr) (size : Size) (s : State) : Bool :=
  match target s.limbs addr size with
  | none => false
  | some l => l.isHeld && s.busy

/-- `BusRead(addr, size)` (20_memory R56); a read changes no state. -/
def busRead (addr : Addr) (size : Size) (s : State) : BusAnswer :=
  match target s.limbs addr size with
  | none => .buserr
  | some l => if s.holds addr size then .hold else .done (.data (s.readLoc l)) s

/-- `BusWrite(addr, size, data)` (20_memory R57). -/
def busWrite (addr : Addr) (size : Size) (data : Word) (s : State) : BusAnswer :=
  match target s.limbs addr size with
  | none => .buserr
  | some l => if s.holds addr size then .hold else .done .ok (s.writeLoc l data)

/-- The oldest input is a transaction that has to wait (20_memory R60); it blocks the port (20_memory R63). -/
def State.portBlocked (s : State) : Bool :=
  match s.inputs with
  | .read a z :: _ => s.holds a z
  | .write a z _ :: _ => s.holds a z
  | .rst _ :: _ => false
  | [] => false

/-- The outside world can move: there is an input, and the port is not blocked. A transaction while `rst_n` = 0 is not
held back: it is refused (log entry 6). -/
def State.hostReady (s : State) : Bool := !s.inputs.isEmpty && !(s.rstN && s.portBlocked)

/-- The engine can move: a command is pending and the block is not held in reset (10_state R37,
70_reset_and_hazards R190). -/
def State.engineReady (s : State) : Bool := s.busy && s.rstN

/-- A completed transaction leaves the port and its answer is recorded; a BUSERR is a host fault (20_memory R58; log
entry 4); a held transaction waits (20_memory R60). -/
def finishTransaction (a : BusAnswer) (s : State) : Host.Outcome State Fault Refusal :=
  match a with
  | .buserr => .fault .busError
  | .hold => .next s
  | .done r t => .next (t.popInput.respond r)

/-- The step of the outside world: the oldest input is taken (20_memory R63). -/
def hostStep (s : State) : Host.Outcome State Fault Refusal :=
  match s.inputs with
  | [] => .next s
  | .rst level :: _ => .next (s.popInput.driveRst level)
  | .read a z :: _ =>
    if s.rstN then finishTransaction (busRead a z s) s else .refused .transactionDuringReset
  | .write a z d :: _ =>
    if s.rstN then finishTransaction (busWrite a z d s) s else .refused .transactionDuringReset

end Sys2Proof.Machine
end

