-- ==== Sys2Proof/WellFormed.lean ====
section
/-! DEFINITION. Which commands have an encoding: the value constraints of the format (30_encoding R83, R91). -/

namespace Sys2Proof

/-- A register number that can name a point pair (30_encoding R83: "the index must be even"). -/
abbrev RegIdx.isPair (i : RegIdx) : Bool := i.val % 2 == 0

/-- The command can be encoded: two destinations differ (30_encoding R91) and every point field is even
(30_encoding R83). -/
def Instr.wf : Instr → Bool
  | .add _ _ _ | .sub _ _ _ | .mul _ _ _ => true
  | .mulw rd rx _ _ | .divrem rd rx _ _ => rd != rx
  | .radd _ _ _ | .rsub _ _ _ | .rmul _ _ _ => true
  | .rinv _ _ => true
  | .padd rd rs1 rs2 => RegIdx.isPair rd && RegIdx.isPair rs1 && RegIdx.isPair rs2
  | .pdbl rd rs1 => RegIdx.isPair rd && RegIdx.isPair rs1
  | .pmul rd rs1 _ => RegIdx.isPair rd && RegIdx.isPair rs1

end Sys2Proof
end

