-- ==== Sys2Proof/Decode.lean ====
section
/-! DEFINITION. Decoding a command word, total and refusing by name, the encoder, the opcode table as data, and the
assembler's names (30_encoding). -/

namespace Sys2Proof

/-- Why a word is no command (30_encoding R88). The engine reports every one of them as ILLEGAL. -/
inductive Illegal where
  /-- the opcode is reserved (R85) -/
  | reservedOpcode
  /-- bits 31:24 are not 0 (R87) -/
  | reservedBits
  /-- a field marked 0 for the command is not 0 (R86) -/
  | mustBeZero
  /-- a point field is odd (R83) -/
  | oddPointField
  /-- `rd = rx` in MULW or DIVREM (R91) -/
  | sameDestinations
  deriving DecidableEq, Repr

/-- The fields of format F4 (30_encoding R81), low bits first. -/
structure Fields where
  op  : Byte
  rd  : RegIdx
  rs1 : RegIdx
  rs2 : RegIdx
  rx  : RegIdx
  res : Byte
  deriving DecidableEq, Repr

/-- A four-bit register field as a register number (30_encoding R82). -/
def regField (f : BitVec 4) : RegIdx := f.toFin

/-- Take a word apart (30_encoding R81). -/
def fieldsOf (c : Word) : Fields where
  op  := c.extractLsb' 0 8
  rd  := regField (c.extractLsb' 8 4)
  rs1 := regField (c.extractLsb' 12 4)
  rs2 := regField (c.extractLsb' 16 4)
  rx  := regField (c.extractLsb' 20 4)
  res := c.extractLsb' 24 8

/-- Put a word together from its fields: the 32-bit concatenation of res, rx, rs2, rs1, rd, op (30_encoding R81). -/
def assemble (f : Fields) : Word :=
  f.res ++ (BitVec.ofFin f.rx : BitVec 4) ++ (BitVec.ofFin f.rs2 : BitVec 4) ++ (BitVec.ofFin f.rs1 : BitVec 4)
    ++ (BitVec.ofFin f.rd : BitVec 4) ++ f.op

/-- The fields marked 0 in the opcode map must hold 0 (30_encoding R86). -/
def requireZero (zeros : List RegIdx) (i : Instr) : Except Illegal Instr :=
  if zeros.all (· == 0) then .ok i else .error .mustBeZero

/-- A command whose zero fields are right is legal if its point fields are even and its destinations differ
(30_encoding R83, R91). -/
def requireWellFormed : Except Illegal Instr → Except Illegal Instr
  | .error e => .error e
  | .ok i =>
    if i.wf then .ok i
    else match i with
      | .mulw _ _ _ _ | .divrem _ _ _ _ => .error .sameDestinations
      | _ => .error .oddPointField

/-- The opcode map of 30_encoding R85: the command an opcode names and the fields it needs to be 0. -/
def byOpcode (f : Fields) : Except Illegal Instr :=
  match f.op.toNat with
  | 0x01 => requireZero [f.rx] (.add f.rd f.rs1 f.rs2)
  | 0x02 => requireZero [f.rx] (.sub f.rd f.rs1 f.rs2)
  | 0x03 => requireZero [f.rx] (.mul f.rd f.rs1 f.rs2)
  | 0x04 => requireZero [] (.mulw f.rd f.rx f.rs1 f.rs2)
  | 0x05 => requireZero [] (.divrem f.rd f.rx f.rs1 f.rs2)
  | 0x10 => requireZero [f.rx] (.radd f.rd f.rs1 f.rs2)
  | 0x11 => requireZero [f.rx] (.rsub f.rd f.rs1 f.rs2)
  | 0x12 => requireZero [f.rx] (.rmul f.rd f.rs1 f.rs2)
  | 0x13 => requireZero [f.rs2, f.rx] (.rinv f.rd f.rs1)
  | 0x20 => requireZero [f.rx] (.padd f.rd f.rs1 f.rs2)
  | 0x21 => requireZero [f.rs2, f.rx] (.pdbl f.rd f.rs1)
  | 0x22 => requireZero [f.rx] (.pmul f.rd f.rs1 f.rs2)
  | _ => .error .reservedOpcode

/-- Decode a command word (30_encoding R90). It depends on the 32 bits alone (R92). -/
def decode (c : Word) : Except Illegal Instr :=
  let f := fieldsOf c
  if f.res = 0#8 then requireWellFormed (byOpcode f) else .error .reservedBits

/-- The fields of a command; unused fields are 0 (30_encoding R85, R93). -/
def Instr.fields : Instr → Fields
  | .add rd rs1 rs2       => ⟨0x01, rd, rs1, rs2, 0, 0⟩
  | .sub rd rs1 rs2       => ⟨0x02, rd, rs1, rs2, 0, 0⟩
  | .mul rd rs1 rs2       => ⟨0x03, rd, rs1, rs2, 0, 0⟩
  | .mulw rd rx rs1 rs2   => ⟨0x04, rd, rs1, rs2, rx, 0⟩
  | .divrem rd rx rs1 rs2 => ⟨0x05, rd, rs1, rs2, rx, 0⟩
  | .radd rd rs1 rs2      => ⟨0x10, rd, rs1, rs2, 0, 0⟩
  | .rsub rd rs1 rs2      => ⟨0x11, rd, rs1, rs2, 0, 0⟩
  | .rmul rd rs1 rs2      => ⟨0x12, rd, rs1, rs2, 0, 0⟩
  | .rinv rd rs1          => ⟨0x13, rd, rs1, 0, 0, 0⟩
  | .padd rd rs1 rs2      => ⟨0x20, rd, rs1, rs2, 0, 0⟩
  | .pdbl rd rs1          => ⟨0x21, rd, rs1, 0, 0, 0⟩
  | .pmul rd rs1 rs2      => ⟨0x22, rd, rs1, rs2, 0, 0⟩

/-- The word a command assembles to (30_encoding R93). -/
def encode (i : Instr) : Word := assemble i.fields

/-- The host's question: the command the decoder reads from a table row's bits. A command is 32 bits (30_encoding R80), so
bits above the row's `nbits` are 0 and a number with a bit above 31 is no command. -/
def decodeTableWord (nbits w : Nat) : Option Instr :=
  let bits := w % 2 ^ nbits
  if bits < 2 ^ 32 then
    match decode (BitVec.ofNat 32 bits) with
    | .ok i => some i
    | .error _ => none
  else none

/-- One row of the opcode table (30_encoding R90): a word is an instance of the row when its masked bits are the row's. -/
structure Row where
  mnemonic : String
  pattern  : Word
  mask     : Word
  /-- the row needs `rd` and `rx` to differ (30_encoding R91) -/
  twoDest  : Bool
  deriving DecidableEq, Repr

/-- The word has the row's fixed bits (30_encoding R90). -/
def Row.fits (r : Row) (c : Word) : Bool := c &&& r.mask == r.pattern

/-- The opcode table of the spec, its match and mask columns as they stand there. -/
def opcodeTable : List Row :=
  [ ⟨"ADD",    0x00000001#32, 0xFFF000FF#32, false⟩,
    ⟨"SUB",    0x00000002#32, 0xFFF000FF#32, false⟩,
    ⟨"MUL",    0x00000003#32, 0xFFF000FF#32, false⟩,
    ⟨"MULW",   0x00000004#32, 0xFF0000FF#32, true⟩,
    ⟨"DIVREM", 0x00000005#32, 0xFF0000FF#32, true⟩,
    ⟨"RADD",   0x00000010#32, 0xFFF000FF#32, false⟩,
    ⟨"RSUB",   0x00000011#32, 0xFFF000FF#32, false⟩,
    ⟨"RMUL",   0x00000012#32, 0xFFF000FF#32, false⟩,
    ⟨"RINV",   0x00000013#32, 0xFFFF00FF#32, false⟩,
    ⟨"PADD",   0x00000020#32, 0xFFF111FF#32, false⟩,
    ⟨"PDBL",   0x00000021#32, 0xFFFF11FF#32, false⟩,
    ⟨"PMUL",   0x00000022#32, 0xFFF011FF#32, false⟩ ]

/-- The table's name of a command (30_encoding R85). -/
def Instr.mnemonic : Instr → String
  | .add _ _ _ => "ADD"
  | .sub _ _ _ => "SUB"
  | .mul _ _ _ => "MUL"
  | .mulw _ _ _ _ => "MULW"
  | .divrem _ _ _ _ => "DIVREM"
  | .radd _ _ _ => "RADD"
  | .rsub _ _ _ => "RSUB"
  | .rmul _ _ _ => "RMUL"
  | .rinv _ _ => "RINV"
  | .padd _ _ _ => "PADD"
  | .pdbl _ _ => "PDBL"
  | .pmul _ _ _ => "PMUL"

/-- The operands of a command in the order they are written, destinations first (30_encoding R93). -/
def Instr.operands : Instr → List RegIdx
  | .add rd rs1 rs2 | .sub rd rs1 rs2 | .mul rd rs1 rs2 => [rd, rs1, rs2]
  | .mulw rd rx rs1 rs2 | .divrem rd rx rs1 rs2 => [rd, rx, rs1, rs2]
  | .radd rd rs1 rs2 | .rsub rd rs1 rs2 | .rmul rd rs1 rs2 => [rd, rs1, rs2]
  | .rinv rd rs1 | .pdbl rd rs1 => [rd, rs1]
  | .padd rd rs1 rs2 | .pmul rd rs1 rs2 => [rd, rs1, rs2]

/-- A command as assembly text (30_encoding R93). -/
def Instr.assembly (i : Instr) : String :=
  i.mnemonic ++ " " ++ String.intercalate ", " (i.operands.map fun r => "R" ++ toString r.val)

/-- `SQR Rd, Ra` expands to `MUL Rd, Ra, Ra` (30_encoding R94). -/
def Instr.sqr (rd ra : RegIdx) : Instr := .mul rd ra ra

/-- `SQRW Rlo, Rhi, Ra` expands to `MULW Rlo, Rhi, Ra, Ra` (30_encoding R94). -/
def Instr.sqrw (lo hi ra : RegIdx) : Instr := .mulw lo hi ra ra

/-- `RSQR Rd, Ra` expands to `RMUL Rd, Ra, Ra` (30_encoding R94). -/
def Instr.rsqr (rd ra : RegIdx) : Instr := .rmul rd ra ra

end Sys2Proof
end

