-- ==== Sys2Proof/Machine/Ring.lean ====
section
/-! DEFINITION. The modular-ring commands RADD, RSUB, RMUL, RINV (41_ring). The modulus m is MOD, read at the engine step;
m = 0 raises DIVZERO before any operand is examined (41_ring R120). -/

namespace Sys2Proof.Machine

open Sys2Proof

/-- The loop of 41_ring R127 for modulus `m`: remainders `r0`, `r1`, unsigned coefficients `s0`, `s1`, and whether the
number of rounds so far is odd. `fuel` bounds the rounds; the remainders fall, so `m + 1` of them are enough (log
entry 8). -/
def euclidLoop (m : Nat) : Nat → Nat → Nat → Nat → Nat → Bool → Option Nat
  | 0, _, _, _, _, _ => none
  | fuel + 1, r0, r1, s0, s1, odd =>
    if r1 = 0 then
      if r0 = 1 then some (residue (if odd then (m : Int) - (s0 : Int) else (s0 : Int)) m) else none
    else euclidLoop m fuel r1 (r0 % r1) s1 (s0 + r0 / r1 * s1) (!odd)

/-- `rinv(a)` for modulus m >= 1: the inverse of `a` in [0, m), or nothing when gcd(a, m) is not 1 (41_ring R126),
computed as 41_ring R127 lays out. -/
def rinv (m a : Nat) : Option Nat := euclidLoop m (m + 1) a m 1 0 false

/-- RADD (41_ring R122). -/
def execRadd (rd rs1 rs2 : RegIdx) (s : State) : Host.Outcome State Fault Refusal :=
  if s.modVal = 0 then fail .divzero s
  else succeed [(rd, residue ((s.regVal rs1 : Int) + s.regVal rs2) s.modVal)] s

/-- RSUB (41_ring R123). -/
def execRsub (rd rs1 rs2 : RegIdx) (s : State) : Host.Outcome State Fault Refusal :=
  if s.modVal = 0 then fail .divzero s
  else succeed [(rd, residue ((s.regVal rs1 : Int) - s.regVal rs2) s.modVal)] s

/-- RMUL (41_ring R124). -/
def execRmul (rd rs1 rs2 : RegIdx) (s : State) : Host.Outcome State Fault Refusal :=
  if s.modVal = 0 then fail .divzero s
  else succeed [(rd, residue ((s.regVal rs1 : Int) * s.regVal rs2) s.modVal)] s

/-- RINV (41_ring R125). -/
def execRinv (rd rs1 : RegIdx) (s : State) : Host.Outcome State Fault Refusal :=
  if s.modVal = 0 then fail .divzero s
  else match rinv s.modVal (s.regVal rs1) with
    | none => fail .noinv s
    | some x => succeed [(rd, x)] s

end Sys2Proof.Machine
end

