-- ==== Sys2Proof/Machine/Curve.lean ====
section
/-! DEFINITION. The elliptic-curve commands PADD, PDBL, PMUL on y² = x³ + ax + b mod p, with p in MOD and a in CA
(42_curve). No command checks that its points lie on the curve (42_curve R140). -/

namespace Sys2Proof.Machine

open Sys2Proof

/-- The slope's numerator: the tangent's when both raw coordinates are equal, else the chord's (42_curve R141). -/
def slopeNum (m A : Nat) (p q : Point) : Nat :=
  if p = q then residue (3 * (p.x : Int) * p.x + A) m else residue ((q.y : Int) - p.y) m

/-- The slope's denominator (42_curve R141). -/
def slopeDen (m : Nat) (p q : Point) : Nat :=
  if p = q then residue (2 * (p.y : Int)) m else residue ((q.x : Int) - p.x) m

/-- The third point of the line of slope `sl` through `p` and `q`, mirrored (42_curve R141). -/
def thirdPoint (m sl : Nat) (p q : Point) : Point :=
  let x3 := residue ((sl : Int) * sl - p.x - q.x) m
  ⟨x3, residue ((sl : Int) * ((p.x : Int) - x3) - p.y) m⟩

/-- `padd(P, Q)` for m >= 1 and curve coefficient A; nothing when the denominator has no inverse (42_curve R141). -/
def padd (m A : Nat) (p q : Point) : Option Point :=
  match rinv m (slopeDen m p q) with
  | none => none
  | some i => some (thirdPoint m (residue ((slopeNum m A p q : Int) * i) m) p q)

/-- `bit(k, i)` (42_curve R146). -/
def scalarBit (k i : Nat) : Bool := k / 2 ^ i % 2 == 1

/-- `msb(k)` for k > 0: the index of the most significant set bit (42_curve R146). -/
def msb (k : Nat) : Nat := Nat.log2 k

/-- The loop of 42_curve R145 over bits `n - 1` down to 0: double, then add P if the bit is 1. -/
def smulLoop (m A k : Nat) (p : Point) : Nat → Point → Option Point
  | 0, acc => some acc
  | n + 1, acc =>
    match padd m A acc acc with
    | none => none
    | some dbl =>
      if scalarBit k n then
        match padd m A dbl p with
        | none => none
        | some sum => smulLoop m A k p n sum
      else smulLoop m A k p n dbl

/-- `smul(P, k)` (42_curve R145). -/
def smul (m A : Nat) (p : Point) (k : Nat) : Option Point :=
  if k = 0 then none else smulLoop m A k p (msb k) p

/-- How every curve command ends: NOPOINT, or both registers of the destination pair written (42_curve R140, R147). -/
def finishPoint (rd : RegIdx) (r : Option Point) (s : State) : Host.Outcome State Fault Refusal :=
  match r with
  | none => fail .nopoint s
  | some t => succeed [(rd, t.x), (pairHigh rd, t.y)] s

/-- PADD (42_curve R142). A term with an odd point field has no encoding and is ILLEGAL (30_encoding R83; log entry 7). -/
def execPadd (rd rs1 rs2 : RegIdx) (s : State) : Host.Outcome State Fault Refusal :=
  if !(Instr.padd rd rs1 rs2).wf then fail .illegal s
  else if s.modVal = 0 then fail .divzero s
  else finishPoint rd (padd s.modVal s.caVal (s.point rs1) (s.point rs2)) s

/-- PDBL (42_curve R143), always the doubling branch. A term with an odd point field is ILLEGAL (30_encoding R83; log
entry 7). -/
def execPdbl (rd rs1 : RegIdx) (s : State) : Host.Outcome State Fault Refusal :=
  if !(Instr.pdbl rd rs1).wf then fail .illegal s
  else if s.modVal = 0 then fail .divzero s
  else finishPoint rd (padd s.modVal s.caVal (s.point rs1) (s.point rs1)) s

/-- PMUL (42_curve R144); the scalar may be any register. A term with an odd point field is ILLEGAL (30_encoding R83; log
entry 7). -/
def execPmul (rd rs1 rs2 : RegIdx) (s : State) : Host.Outcome State Fault Refusal :=
  if !(Instr.pmul rd rs1 rs2).wf then fail .illegal s
  else if s.modVal = 0 then fail .divzero s
  else finishPoint rd (smul s.modVal s.caVal (s.point rs1) (s.regVal rs2)) s

end Sys2Proof.Machine
end

