-- ==== Sys2Proof/Machine/Integer.lean ====
section
/-! DEFINITION. The fixed-width integer commands ADD, SUB, MUL, MULW, DIVREM (40_integer). All operands are unsigned and
read before any write; a result that does not fit is an error, never a wraparound (40_integer R100, R107). -/

namespace Sys2Proof.Machine

open Sys2Proof

/-- ADD (40_integer R101). -/
def execAdd (rd rs1 rs2 : RegIdx) (s : State) : Host.Outcome State Fault Refusal :=
  let sum := s.regVal rs1 + s.regVal rs2
  if s.bound ≤ sum then fail .overflow s else succeed [(rd, sum)] s

/-- SUB (40_integer R102). -/
def execSub (rd rs1 rs2 : RegIdx) (s : State) : Host.Outcome State Fault Refusal :=
  if s.regVal rs1 < s.regVal rs2 then fail .underflow s
  else succeed [(rd, s.regVal rs1 - s.regVal rs2)] s

/-- MUL (40_integer R103). -/
def execMul (rd rs1 rs2 : RegIdx) (s : State) : Host.Outcome State Fault Refusal :=
  let product := s.regVal rs1 * s.regVal rs2
  if s.bound ≤ product then fail .overflow s else succeed [(rd, product)] s

/-- MULW (40_integer R104): the low half to `rd`, the high half to `rx`. A term with `rd = rx` has no encoding and is
ILLEGAL (30_encoding R91; log entry 7). -/
def execMulw (rd rx rs1 rs2 : RegIdx) (s : State) : Host.Outcome State Fault Refusal :=
  let product := s.regVal rs1 * s.regVal rs2
  if rd = rx then fail .illegal s
  else succeed [(rd, product % s.bound), (rx, product / s.bound)] s

/-- DIVREM (40_integer R105): the quotient to `rd`, the remainder to `rx`. A term with `rd = rx` has no encoding and is
ILLEGAL, which comes before DIVZERO (30_encoding R91, 60_exceptions R166; log entry 7). -/
def execDivrem (rd rx rs1 rs2 : RegIdx) (s : State) : Host.Outcome State Fault Refusal :=
  if rd = rx then fail .illegal s
  else if s.regVal rs2 = 0 then fail .divzero s
  else succeed [(rd, s.regVal rs1 / s.regVal rs2), (rx, s.regVal rs1 % s.regVal rs2)] s

end Sys2Proof.Machine
end

