-- ==== Sys2Proof/Machine/Dispatch.lean ====
section
/-! DEFINITION. One arm per command: the meaning the engine gives it (30_encoding R90, Execute). -/

namespace Sys2Proof.Machine

open Sys2Proof

def exec (i : Instr) (s : State) : Host.Outcome State Fault Refusal :=
  match i with
  | .add rd rs1 rs2 => Sys2Proof.Machine.execAdd rd rs1 rs2 s
  | .sub rd rs1 rs2 => Sys2Proof.Machine.execSub rd rs1 rs2 s
  | .mul rd rs1 rs2 => Sys2Proof.Machine.execMul rd rs1 rs2 s
  | .mulw rd rx rs1 rs2 => Sys2Proof.Machine.execMulw rd rx rs1 rs2 s
  | .divrem rd rx rs1 rs2 => Sys2Proof.Machine.execDivrem rd rx rs1 rs2 s
  | .radd rd rs1 rs2 => Sys2Proof.Machine.execRadd rd rs1 rs2 s
  | .rsub rd rs1 rs2 => Sys2Proof.Machine.execRsub rd rs1 rs2 s
  | .rmul rd rs1 rs2 => Sys2Proof.Machine.execRmul rd rs1 rs2 s
  | .rinv rd rs1 => Sys2Proof.Machine.execRinv rd rs1 s
  | .padd rd rs1 rs2 => Sys2Proof.Machine.execPadd rd rs1 rs2 s
  | .pdbl rd rs1 => Sys2Proof.Machine.execPdbl rd rs1 s
  | .pmul rd rs1 rs2 => Sys2Proof.Machine.execPmul rd rs1 rs2 s

end Sys2Proof.Machine
end

