-- ==== Sys2Proof/Machine/Engine.lean ====
section
/-! DEFINITION. The engine's step: decode the pending command and execute it (10_state R37, 30_encoding R90). -/

namespace Sys2Proof.Machine

open Sys2Proof

/-- The engine takes the pending command: an illegal word raises ILLEGAL (30_encoding R88), a legal one is executed. -/
def engineStep (s : State) : Host.Outcome State Fault Refusal :=
  match decode s.pend with
  | .error _ => fail .illegal s
  | .ok i => exec i s

/-- Place a word as the pending command, as acceptance of a CMD write does (10_state R36), with the engine to move. -/
def State.setPending (c : Word) (s : State) : State :=
  { s with pend := c, busy := true, rstN := true, delay := 0 }

end Sys2Proof.Machine
end

