-- ==== Sys2Proof/Machine/Step.lean ====
section
/-! DEFINITION. One step of the machine: the engine step or the next input of the outside world, never both at once
(20_memory R63, 60_exceptions R172). -/

namespace Sys2Proof.Machine

open Sys2Proof

/-- One step. With both agents ready, the outside world moves as long as `delay` lasts, then the engine (20_memory R63:
either order; 70_reset_and_hazards R204: the engine step is eventually taken). With one ready, it moves. With none, the
block is idle and keeps all of its state (60_exceptions R179; log entry 12). -/
def step (s : State) : Host.Outcome State Fault Refusal :=
  if s.engineReady && s.hostReady then
    if s.delay = 0 then engineStep s.redraw else hostStep s.countDown
  else if s.engineReady then engineStep s
  else if s.hostReady then hostStep s
  else .next s

/-- The state in which the very next step executes the command word `w` (its low `nbits` bits): SU-CORE fetches nothing
(10_state R25), so the word is placed where acceptance of a CMD write places it, and the engine is to move (log entry 2). -/
def State.withFetchWord (s : State) (nbits w : Nat) : State :=
  s.setPending (BitVec.ofNat 32 (w % 2 ^ nbits))

end Sys2Proof.Machine
end

