-- ==== Sys2Proof/Machine/HostOps.lean ====
section
/-! DEFINITION. The host operations of 30_encoding R94: the bus transactions each expands to, for an instance of `n`
limbs, the value `RD` reads, and the loop of `WAIT`, whose length depends on the answers. -/

namespace Sys2Proof.Machine

open Sys2Proof

/-- One aligned 32-bit read. -/
def readWord (a : Nat) : Input := .read (BitVec.ofNat 16 a) .four

/-- One aligned 32-bit write. -/
def writeWord (a : Nat) (d : Word) : Input := .write (BitVec.ofNat 16 a) .four d

/-- Write a value to a window, limb 0 first. -/
def hostWriteWindow (n : Nat) (w : Window) (v : Nat) : List Input :=
  (List.range n).map fun i => writeWord (w.base + 4 * i) (BitVec.ofNat 32 (v / 2 ^ (32 * i)))

/-- `WR Rr, v`. -/
def hostWR (n : Nat) (r : RegIdx) (v : Nat) : List Input := hostWriteWindow n (.gpr r) v

/-- `WRMOD v`. -/
def hostWRMOD (n v : Nat) : List Input := hostWriteWindow n .mod v

/-- `WRCA v`. -/
def hostWRCA (n v : Nat) : List Input := hostWriteWindow n .ca v

/-- `RD Rr`: its reads, limb 0 first. -/
def hostRD (n : Nat) (r : RegIdx) : List Input :=
  (List.range n).map fun i => readWord ((Window.gpr r).base + 4 * i)

/-- The data an answer brings, if it brings any. -/
def Response.data? : Response → Option Word
  | .data w => some w
  | .ok => none

/-- The value of `RD`: the sum of limb_i · 2^(32·i) over the answers of its reads, limb 0 first. -/
def hostRDValue (answers : List Response) : Nat := bigVal (answers.filterMap Response.data?)

/-- A command written to CMD. -/
def hostCommand (i : Instr) : List Input := [writeWord 0x0010 (encode i)]

/-- One poll of `WAIT`: `s = BusRead(0x000C, 4)`, ahead of what the host does afterwards. STATUS is never held, so the
answer has come after one step, or after a second one if the engine moved first (20_memory R60, R63). -/
def hostPoll (s : State) : Host.Outcome State Fault Refusal :=
  match step { s with inputs := readWord 0x000C :: s.inputs } with
  | .next t => if t.responses = s.responses then step t else .next t
  | .fault f => .fault f
  | .refused r => .refused r

/-- The `until` of `WAIT`: the newest answer is a word `s` with `s[0] == 0`. -/
def waitOver (answers : List Response) : Bool :=
  match answers.getLast? with
  | some (.data w) => !w[0]
  | some .ok => false
  | none => false

/-- Repeat the poll until it reads BUSY = 0, with at most `k` polls. -/
def hostPolls : Nat → State → Host.Outcome State Fault Refusal
  | 0, s => .next s
  | k + 1, s =>
    match hostPoll s with
    | .next t => if waitOver t.responses then .next t else hostPolls k t
    | .fault f => .fault f
    | .refused r => .refused r

/-- `WAIT`: repeat the poll until it reads BUSY = 0. The engine step comes before more than `delay` polls have
(70_reset_and_hazards R204), so the bound `delay + 1` cuts no WAIT short (log entry 14; statement O60). -/
def hostWAIT (s : State) : Host.Outcome State Fault Refusal := hostPolls (s.delay + 1) s

/-- `CLRERR`. -/
def hostCLRERR : List Input := [writeWord 0x000C 0x00000006#32]

end Sys2Proof.Machine
end

