-- ==== Sys2Proof/Safety.lean ====
section
/-! DEFINITION. The terms the statements use: the invariant of a sound state, what success and failure of a command leave,
the reset state, and what each command reads, writes and may raise. -/

namespace Sys2Proof

/-- The big registers a command writes on success (30_encoding R85, column "writes"). -/
def Instr.dests : Instr → List RegIdx
  | .add rd _ _ | .sub rd _ _ | .mul rd _ _ => [rd]
  | .mulw rd rx _ _ | .divrem rd rx _ _ => [rd, rx]
  | .radd rd _ _ | .rsub rd _ _ | .rmul rd _ _ => [rd]
  | .rinv rd _ => [rd]
  | .padd rd _ _ | .pdbl rd _ | .pmul rd _ _ => [rd, Machine.pairHigh rd]

/-- The big registers a command reads (40_integer, 41_ring, 42_curve). -/
def Instr.sources : Instr → List RegIdx
  | .add _ rs1 rs2 | .sub _ rs1 rs2 | .mul _ rs1 rs2 => [rs1, rs2]
  | .mulw _ _ rs1 rs2 | .divrem _ _ rs1 rs2 => [rs1, rs2]
  | .radd _ rs1 rs2 | .rsub _ rs1 rs2 | .rmul _ rs1 rs2 => [rs1, rs2]
  | .rinv _ rs1 => [rs1]
  | .padd _ rs1 rs2 => [rs1, Machine.pairHigh rs1, rs2, Machine.pairHigh rs2]
  | .pdbl _ rs1 => [rs1, Machine.pairHigh rs1]
  | .pmul _ rs1 rs2 => [rs1, Machine.pairHigh rs1, rs2]

/-- The command reads MOD: every ring and curve command (41_ring R120, 42_curve R140). -/
def Instr.usesMod : Instr → Bool
  | .add _ _ _ | .sub _ _ _ | .mul _ _ _ | .mulw _ _ _ _ | .divrem _ _ _ _ => false
  | .radd _ _ _ | .rsub _ _ _ | .rmul _ _ _ | .rinv _ _ => true
  | .padd _ _ _ | .pdbl _ _ | .pmul _ _ _ => true

/-- The command reads CA: every curve command (42_curve R140). -/
def Instr.usesCa : Instr → Bool
  | .add _ _ _ | .sub _ _ _ | .mul _ _ _ | .mulw _ _ _ _ | .divrem _ _ _ _ => false
  | .radd _ _ _ | .rsub _ _ _ | .rmul _ _ _ | .rinv _ _ => false
  | .padd _ _ _ | .pdbl _ _ | .pmul _ _ _ => true

/-- The errors a legal command may raise: its row of 60_exceptions R162 without ILLEGAL, which only an illegal word
raises. -/
def Instr.errCodes : Instr → List Machine.ErrCode
  | .add _ _ _ | .mul _ _ _ => [.overflow]
  | .sub _ _ _ => [.underflow]
  | .mulw _ _ _ _ => []
  | .divrem _ _ _ _ => [.divzero]
  | .radd _ _ _ | .rsub _ _ _ | .rmul _ _ _ => [.divzero]
  | .rinv _ _ => [.divzero, .noinv]
  | .padd _ _ _ | .pdbl _ _ | .pmul _ _ _ => [.divzero, .nopoint]

end Sys2Proof

namespace Sys2Proof.Machine

open Sys2Proof

/-- Every big register has exactly LIMBS limbs (10_state R21, R23, R24). -/
structure Shaped (s : State) : Prop where
  regs : ∀ i : RegIdx, (s.reg i).length = s.limbs
  mod  : s.mod.length = s.limbs
  ca   : s.ca.length = s.limbs

/-- The invariant of SU-CORE: what holds at reset and after every step. -/
structure StateInv (s : State) : Prop where
  /-- every register has LIMBS limbs -/
  shaped : Shaped s
  /-- 00_scope R5 -/
  limbs_min : Config.minLimbs ≤ s.limbs
  /-- 00_scope R5 -/
  limbs_max : s.limbs ≤ Config.maxLimbs
  /-- no command is pending while an error is recorded (60_exceptions R169, 95_test_vectors 5.2) -/
  busy_noErr : s.busy = true → s.err = false
  /-- DONE is clear while a command is pending (10_state R36) -/
  busy_notDone : s.busy = true → s.done = false
  /-- PEND is 0 when no command is pending (10_state R37) -/
  idle_pend : s.busy = false → s.pend = 0#32
  /-- ERRCODE and ERRCMD are 0 when ERR = 0 (10_state R29, R32) -/
  noErr_clear : s.err = false → s.errcode = .none ∧ s.errcmd = 0#32
  /-- ERRCODE is not 0 when ERR = 1 (60_exceptions R161) -/
  err_code : s.err = true → s.errcode ≠ .none
  /-- the block is in its reset state while `rst_n` = 0 (70_reset_and_hazards R190) -/
  inReset : s.rstN = false → s.toReset = s

/-- The recorded error is one the recorded word can raise: ILLEGAL exactly for an illegal word, else a code of the
command's row in 60_exceptions R162. -/
def ErrorExplained (s : State) : Prop :=
  s.err = true →
    match decode s.errcmd with
    | .error _ => s.errcode = .illegal
    | .ok i => s.errcode ∈ i.errCodes

/-- What no command changes: LIMBS, MOD, CA, CTRL, the reset input, and the surroundings of SU-CORE. -/
structure SameContext (s t : State) : Prop where
  limbs : t.limbs = s.limbs
  mod : t.mod = s.mod
  ca : t.ca = s.ca
  ie : t.ie = s.ie
  rstN : t.rstN = s.rstN
  inputs : t.inputs = s.inputs
  responses : t.responses = s.responses
  delay : t.delay = s.delay
  draws : t.draws = s.draws

/-- The command has completed: PEND <- 0, BUSY <- 0, DONE <- 1 (10_state R37). -/
structure Completed (t : State) : Prop where
  pend : t.pend = 0#32
  busy : t.busy = false
  done : t.done = true

/-- From `s` to `t` a command completed without an error and changed no big register outside `dst`: the frame of a
successful command (10_state R37). -/
structure Succeeds (dst : List RegIdx) (s t : State) : Prop where
  others : ∀ j : RegIdx, j ∉ dst → t.reg j = s.reg j
  completed : Completed t
  err : t.err = s.err
  errcode : t.errcode = s.errcode
  errcmd : t.errcmd = s.errcmd
  context : SameContext s t

/-- From `s` to `t` a command completed with a command error and changed no big register (60_exceptions R163). -/
structure FailsWith (code : ErrCode) (s t : State) : Prop where
  regs : ∀ j : RegIdx, t.reg j = s.reg j
  completed : Completed t
  err : t.err = true
  errcode : t.errcode = code
  errcmd : t.errcmd = s.pend
  context : SameContext s t

/-- The reset state of 70_reset_and_hazards R192: every row of its table that is state or a function of state. -/
structure InResetState (t : State) : Prop where
  regs : ∀ j : RegIdx, t.reg j = zeroBig t.limbs
  mod : t.mod = zeroBig t.limbs
  ca : t.ca = zeroBig t.limbs
  pend : t.pend = 0#32
  ie : t.ie = false
  busy : t.busy = false
  done : t.done = false
  err : t.err = false
  errcode : t.errcode = .none
  errcmd : t.errcmd = 0#32
  irq : t.irq = false

/-- The engine takes the next step: a command is pending, `rst_n` is 1, and the order, where it is open, says so
(20_memory R63). -/
def State.engineMoves (s : State) : Prop :=
  s.busy = true ∧ s.rstN = true ∧ (s.hostReady = true → s.delay = 0)

/-- The outside world takes the next step: it has an input that is not held, and the order, where it is open, says so. -/
def State.hostMoves (s : State) : Prop :=
  s.hostReady = true ∧ (s.engineReady = true → s.delay ≠ 0)

/-- The state as the agent that moves finds it: if both agents were ready, the delay has counted down, or the next one has
been drawn (log entry 3). -/
def State.drawn (s : State) : State :=
  if s.engineReady && s.hostReady then if s.delay = 0 then s.redraw else s.countDown else s

/-- An input that leads neither to a bus error nor to a reset: a good transaction (20_memory R55) that is no CTRL write
with data[0] = 1 (70_reset_and_hazards R191). -/
def State.goodInput (s : State) : Input → Prop
  | .read a z => (target s.limbs a z).isSome = true
  | .write a z d => (target s.limbs a z).isSome = true ∧ (target s.limbs a z = some .ctrl → d[0] = false)
  | .rst _ => False

/-- A point's coordinates satisfy y² ≡ x³ + A·x + b (mod m) (42_curve R148). -/
def OnCurve (m A b : Nat) (p : Point) : Prop :=
  (p.y * p.y) % m = (p.x * p.x * p.x + A * p.x + b) % m

end Sys2Proof.Machine
end

