-- ==== Sys2Proof/Certificates/Slice0/Obligations.lean ====
section
/-! DEFINITION. The statements for the provers, in the order of OBLIGATIONS.json: encoding, integer, ring and curve
commands, every command, the engine step, the bus, reset, and the invariants of a step. -/

open Sys2Proof Sys2Proof.Machine

/-! ## Encoding -/

/-- O1. 30_encoding R95: the example words, the illegal one too, written out from the table of the rule: each assembles
from its command, and decodes to it if it is legal. -/
def Obligations.ExampleWordsDecode : Prop :=
  encode (.add 3 1 2) = 0x00021301#32 ∧
  encode (.mulw 4 5 1 2) = 0x00521404#32 ∧
  encode (.divrem 6 7 0 1) = 0x00710605#32 ∧
  encode (.rinv 2 1) = 0x00001213#32 ∧
  encode (.padd 4 0 2) = 0x00020420#32 ∧
  encode (.pdbl 2 0) = 0x00000221#32 ∧
  encode (.pmul 4 0 8) = 0x00080422#32 ∧
  encode (.padd 5 0 2) = 0x00020520#32 ∧
  decode 0x00021301#32 = .ok (.add 3 1 2) ∧
  decode 0x00521404#32 = .ok (.mulw 4 5 1 2) ∧
  decode 0x00710605#32 = .ok (.divrem 6 7 0 1) ∧
  decode 0x00001213#32 = .ok (.rinv 2 1) ∧
  decode 0x00020420#32 = .ok (.padd 4 0 2) ∧
  decode 0x00000221#32 = .ok (.pdbl 2 0) ∧
  decode 0x00080422#32 = .ok (.pmul 4 0 8) ∧
  decode 0x00020520#32 = .error .oddPointField

/-- O2. Decoding the word of any command that has an encoding gives the command back: no operand bit is lost. -/
def Obligations.DecodeOfEncodeIsTheCommand : Prop :=
  ∀ i : Instr, i.wf = true → decode (encode i) = .ok i

/-- O3. A word the decoder accepts is the word the assembler gives for the decoded command, which has an encoding: no
two words mean one command (30_encoding R88, R93). -/
def Obligations.EncodeOfDecodeIsTheWord : Prop :=
  ∀ (c : Word) (i : Instr), decode c = .ok i → i.wf = true ∧ encode i = c

/-- O4. 30_encoding R90: a word decodes exactly when a row of the opcode table fits it and, in MULW and DIVREM, rd and
rx differ; the row is the one of the decoded command. -/
def Obligations.DecodeFollowsOpcodeTable : Prop :=
  (∀ (c : Word) (i : Instr), decode c = .ok i →
    ∃ r ∈ opcodeTable, r.fits c = true ∧ r.mnemonic = i.mnemonic ∧
      (r.twoDest = true → (fieldsOf c).rd ≠ (fieldsOf c).rx)) ∧
  (∀ (c : Word) (e : Illegal), decode c = .error e →
    ∀ r ∈ opcodeTable, r.fits c = true → r.twoDest = true ∧ (fieldsOf c).rd = (fieldsOf c).rx) ∧
  (∀ (c : Word), ∀ r₁ ∈ opcodeTable, ∀ r₂ ∈ opcodeTable, r₁.fits c = true → r₂.fits c = true → r₁ = r₂)

/-! ## Values and registers -/

/-- O5. 00_scope R10: the value of a big register is the sum of its limbs' place values, and is below 2^W. -/
def Obligations.BigValueIsSumOfLimbs : Prop :=
  ∀ b : Big,
    bigVal b = ((List.range b.length).map fun i => (b.getD i 0#32).toNat * 2 ^ (32 * i)).sum ∧
    bigVal b < 2 ^ (32 * b.length)

/-- O6. 20_memory R53: limb i of a register of N limbs is the four bytes B[4(N-1-i)] to B[4(N-1-i)+3] of the host's
big-endian array of its value, the first of them in bits 31:24. -/
def Obligations.LimbsAreBigEndianBytes : Prop :=
  ∀ (b : Big) (i : Nat), i < b.length →
    let B := (bigEndianBytes b.length (bigVal b)).getD
    let j := 4 * (b.length - 1 - i)
    b.getD i 0#32 = B j 0#8 ++ B (j + 1) 0#8 ++ B (j + 2) 0#8 ++ B (j + 3) 0#8

/-! ## Integer commands. The bound 2^W is written out as 2^(32·N). -/

/-- O7. 40_integer R101, ADD: encoding, result with frame, overflow. -/
def Obligations.AddWritesSumOrOverflows : Prop :=
  ∀ (rd rs1 rs2 : RegIdx) (s : State),
    decode (assemble ⟨0x01, rd, rs1, rs2, 0, 0⟩) = .ok (.add rd rs1 rs2) ∧
    (s.regVal rs1 + s.regVal rs2 < 2 ^ (32 * s.limbs) →
      ∃ t, exec (.add rd rs1 rs2) s = .next t ∧ t.regVal rd = s.regVal rs1 + s.regVal rs2 ∧ Succeeds [rd] s t) ∧
    (2 ^ (32 * s.limbs) ≤ s.regVal rs1 + s.regVal rs2 →
      ∃ t, exec (.add rd rs1 rs2) s = .next t ∧ FailsWith .overflow s t)

/-- O8. 40_integer R102, SUB: encoding, result with frame, underflow. -/
def Obligations.SubWritesDifferenceOrUnderflows : Prop :=
  ∀ (rd rs1 rs2 : RegIdx) (s : State), Shaped s →
    decode (assemble ⟨0x02, rd, rs1, rs2, 0, 0⟩) = .ok (.sub rd rs1 rs2) ∧
    (s.regVal rs2 ≤ s.regVal rs1 →
      ∃ t, exec (.sub rd rs1 rs2) s = .next t ∧ t.regVal rd + s.regVal rs2 = s.regVal rs1 ∧ Succeeds [rd] s t) ∧
    (s.regVal rs1 < s.regVal rs2 →
      ∃ t, exec (.sub rd rs1 rs2) s = .next t ∧ FailsWith .underflow s t)

/-- O9. 40_integer R103, MUL: encoding, result with frame, overflow. -/
def Obligations.MulWritesProductOrOverflows : Prop :=
  ∀ (rd rs1 rs2 : RegIdx) (s : State),
    decode (assemble ⟨0x03, rd, rs1, rs2, 0, 0⟩) = .ok (.mul rd rs1 rs2) ∧
    (s.regVal rs1 * s.regVal rs2 < 2 ^ (32 * s.limbs) →
      ∃ t, exec (.mul rd rs1 rs2) s = .next t ∧ t.regVal rd = s.regVal rs1 * s.regVal rs2 ∧ Succeeds [rd] s t) ∧
    (2 ^ (32 * s.limbs) ≤ s.regVal rs1 * s.regVal rs2 →
      ∃ t, exec (.mul rd rs1 rs2) s = .next t ∧ FailsWith .overflow s t)

/-- O10. 40_integer R104, MULW: encoding, both halves of the exact product with frame, rd = rx illegal. -/
def Obligations.MulwWritesBothHalves : Prop :=
  ∀ (rd rx rs1 rs2 : RegIdx) (s : State), Shaped s →
    (rd ≠ rx →
      decode (assemble ⟨0x04, rd, rs1, rs2, rx, 0⟩) = .ok (.mulw rd rx rs1 rs2) ∧
      ∃ t, exec (.mulw rd rx rs1 rs2) s = .next t ∧
        t.regVal rd = s.regVal rs1 * s.regVal rs2 % 2 ^ (32 * s.limbs) ∧
        t.regVal rx = s.regVal rs1 * s.regVal rs2 / 2 ^ (32 * s.limbs) ∧ Succeeds [rd, rx] s t) ∧
    (rd = rx → decode (assemble ⟨0x04, rd, rs1, rs2, rx, 0⟩) = .error .sameDestinations)

/-- O11. 40_integer R105, DIVREM: encoding, quotient and remainder with frame, division by zero, rd = rx illegal. -/
def Obligations.DivremWritesQuotientAndRemainder : Prop :=
  ∀ (rd rx rs1 rs2 : RegIdx) (s : State), Shaped s →
    (rd ≠ rx → decode (assemble ⟨0x05, rd, rs1, rs2, rx, 0⟩) = .ok (.divrem rd rx rs1 rs2)) ∧
    (rd ≠ rx → s.regVal rs2 ≠ 0 →
      ∃ t, exec (.divrem rd rx rs1 rs2) s = .next t ∧
        t.regVal rd = s.regVal rs1 / s.regVal rs2 ∧ t.regVal rx = s.regVal rs1 % s.regVal rs2 ∧
        Succeeds [rd, rx] s t) ∧
    (rd ≠ rx → s.regVal rs2 = 0 →
      ∃ t, exec (.divrem rd rx rs1 rs2) s = .next t ∧ FailsWith .divzero s t) ∧
    (rd = rx → decode (assemble ⟨0x05, rd, rs1, rs2, rx, 0⟩) = .error .sameDestinations)

/-- O12. 40_integer R108: the four laws of the integer commands. -/
def Obligations.IntegerLaws : Prop :=
  ∀ (s : State), Shaped s →
    (∀ rd rx rs1 rs2 : RegIdx, rd ≠ rx → s.regVal rs2 ≠ 0 →
      ∃ t, exec (.divrem rd rx rs1 rs2) s = .next t ∧
        s.regVal rs1 = t.regVal rd * s.regVal rs2 + t.regVal rx ∧ t.regVal rx < s.regVal rs2) ∧
    (∀ rd rs1 rs2 re : RegIdx, rd ≠ rs2 → s.regVal rs1 + s.regVal rs2 < 2 ^ (32 * s.limbs) →
      ∃ t u, exec (.add rd rs1 rs2) s = .next t ∧ exec (.sub re rd rs2) t = .next u ∧
        Succeeds [re] t u ∧ u.regVal re = s.regVal rs1) ∧
    (∀ rd rx rs1 rs2 : RegIdx, rd ≠ rx →
      ∃ t, exec (.mulw rd rx rs1 rs2) s = .next t ∧
        t.regVal rx * 2 ^ (32 * s.limbs) + t.regVal rd = s.regVal rs1 * s.regVal rs2) ∧
    (∀ rd rx rs1 rs2 : RegIdx, rd ≠ rx →
      ∃ t u, exec (.mulw rd rx rs1 rs2) s = .next t ∧ exec (.mul rd rs1 rs2) s = .next u ∧
        (t.regVal rx = 0 → Succeeds [rd] s u ∧ u.regVal rd = t.regVal rd) ∧
        (t.regVal rx ≠ 0 → FailsWith .overflow s u))

/-! ## Ring commands -/

/-- O13. 41_ring R122, RADD: encoding, residue with frame, zero modulus. -/
def Obligations.RaddWritesResidue : Prop :=
  ∀ (rd rs1 rs2 : RegIdx) (s : State), Shaped s →
    decode (assemble ⟨0x10, rd, rs1, rs2, 0, 0⟩) = .ok (.radd rd rs1 rs2) ∧
    (s.modVal ≠ 0 →
      ∃ t, exec (.radd rd rs1 rs2) s = .next t ∧
        t.regVal rd = (s.regVal rs1 + s.regVal rs2) % s.modVal ∧ Succeeds [rd] s t) ∧
    (s.modVal = 0 → ∃ t, exec (.radd rd rs1 rs2) s = .next t ∧ FailsWith .divzero s t)

/-- O14. 41_ring R123, RSUB: encoding, the residue of the integer a - b with frame, the source's two formulas for reduced
operands, zero modulus. -/
def Obligations.RsubWritesResidue : Prop :=
  ∀ (rd rs1 rs2 : RegIdx) (s : State), Shaped s →
    decode (assemble ⟨0x11, rd, rs1, rs2, 0, 0⟩) = .ok (.rsub rd rs1 rs2) ∧
    (s.modVal ≠ 0 →
      ∃ t, exec (.rsub rd rs1 rs2) s = .next t ∧
        (t.regVal rd : Int) = ((s.regVal rs1 : Int) - s.regVal rs2) % s.modVal ∧
        (s.regVal rs1 < s.modVal → s.regVal rs2 < s.modVal →
          t.regVal rd = if s.regVal rs1 < s.regVal rs2 then s.modVal - (s.regVal rs2 - s.regVal rs1)
            else s.regVal rs1 - s.regVal rs2) ∧
        Succeeds [rd] s t) ∧
    (s.modVal = 0 → ∃ t, exec (.rsub rd rs1 rs2) s = .next t ∧ FailsWith .divzero s t)

/-- O15. 41_ring R124, RMUL: encoding, residue with frame, zero modulus. -/
def Obligations.RmulWritesResidue : Prop :=
  ∀ (rd rs1 rs2 : RegIdx) (s : State), Shaped s →
    decode (assemble ⟨0x12, rd, rs1, rs2, 0, 0⟩) = .ok (.rmul rd rs1 rs2) ∧
    (s.modVal ≠ 0 →
      ∃ t, exec (.rmul rd rs1 rs2) s = .next t ∧
        t.regVal rd = s.regVal rs1 * s.regVal rs2 % s.modVal ∧ Succeeds [rd] s t) ∧
    (s.modVal = 0 → ∃ t, exec (.rmul rd rs1 rs2) s = .next t ∧ FailsWith .divzero s t)

/-- O16. 41_ring R126: the inverse function finds the one inverse in [0, m) exactly when gcd(a, m) = 1. -/
def Obligations.RinvFindsTheInverse : Prop :=
  ∀ m a : Nat, 1 ≤ m →
    (Nat.gcd a m = 1 →
      ∃ x, rinv m a = some x ∧ x < m ∧ a * x % m = 1 % m ∧ ∀ y, y < m → a * y % m = 1 % m → y = x) ∧
    (Nat.gcd a m ≠ 1 → rinv m a = none)

/-- O17. 41_ring R125, RINV: encoding, an inverse modulo m with frame, no inverse, zero modulus. -/
def Obligations.RinvWritesInverseOrNoinv : Prop :=
  ∀ (rd rs1 : RegIdx) (s : State), Shaped s →
    decode (assemble ⟨0x13, rd, rs1, 0, 0, 0⟩) = .ok (.rinv rd rs1) ∧
    (s.modVal ≠ 0 → Nat.gcd (s.regVal rs1) s.modVal = 1 →
      ∃ t, exec (.rinv rd rs1) s = .next t ∧ t.regVal rd < s.modVal ∧
        s.regVal rs1 * t.regVal rd % s.modVal = 1 % s.modVal ∧ Succeeds [rd] s t) ∧
    (s.modVal ≠ 0 → Nat.gcd (s.regVal rs1) s.modVal ≠ 1 →
      ∃ t, exec (.rinv rd rs1) s = .next t ∧ FailsWith .noinv s t) ∧
    (s.modVal = 0 → ∃ t, exec (.rinv rd rs1) s = .next t ∧ FailsWith .divzero s t)

/-- O18. 41_ring R128: RSUB a, b and then RADD with b gives a mod m, whatever the operands. -/
def Obligations.RsubThenRaddGivesResidue : Prop :=
  ∀ (rd rs1 rs2 re : RegIdx) (s : State), Shaped s → s.modVal ≠ 0 → rd ≠ rs2 →
    ∃ t u, exec (.rsub rd rs1 rs2) s = .next t ∧ exec (.radd re rd rs2) t = .next u ∧
      u.regVal re = s.regVal rs1 % s.modVal

/-- O19. 41_ring R128: RMUL of a and RINV(a) gives 1 when m >= 2 and gcd(a, m) = 1. -/
def Obligations.RmulByInverseGivesOne : Prop :=
  ∀ (rd rs1 re : RegIdx) (s : State), Shaped s → 2 ≤ s.modVal → Nat.gcd (s.regVal rs1) s.modVal = 1 → rd ≠ rs1 →
    ∃ t u, exec (.rinv rd rs1) s = .next t ∧ exec (.rmul re rs1 rd) t = .next u ∧ u.regVal re = 1

/-! ## Curve commands -/

/-- O20. 42_curve R141: point addition fails exactly when the denominator (of the tangent for raw-equal points, of the
chord otherwise) has no inverse; else the result is fixed by its slope, and both coordinates are residues. -/
def Obligations.PaddFollowsChordAndTangent : Prop :=
  ∀ (m A : Nat) (p q : Point), 1 ≤ m →
    let num : Int := if p = q then 3 * p.x * p.x + A else q.y - p.y
    let den : Int := if p = q then 2 * p.y else q.x - p.x
    (padd m A p q = none ↔ Int.gcd den m ≠ 1) ∧
    (∀ r, padd m A p q = some r →
      r.x < m ∧ r.y < m ∧
      ∃ sl : Int, (m : Int) ∣ sl * den - num ∧ (m : Int) ∣ r.x - (sl * sl - p.x - q.x) ∧
        (m : Int) ∣ r.y - (sl * (p.x - r.x) - p.y))

/-- O21. 42_curve R142, PADD: encoding, the sum of the two points in the destination pair with frame, NOPOINT, zero
modulus, odd fields and a nonzero rx illegal; when NOPOINT happens for a prime modulus, and the result for modulus 1. -/
def Obligations.PaddWritesPointOrNopoint : Prop :=
  ∀ (rd rs1 rs2 : RegIdx) (s : State), Shaped s →
    (rd.val % 2 = 0 → rs1.val % 2 = 0 → rs2.val % 2 = 0 →
      decode (assemble ⟨0x20, rd, rs1, rs2, 0, 0⟩) = .ok (.padd rd rs1 rs2) ∧
      (∀ r, s.modVal ≠ 0 →
        padd s.modVal s.caVal ⟨s.regVal rs1, s.regVal (rs1 + 1)⟩ ⟨s.regVal rs2, s.regVal (rs2 + 1)⟩ = some r →
        ∃ t, exec (.padd rd rs1 rs2) s = .next t ∧ t.regVal rd = r.x ∧ t.regVal (rd + 1) = r.y ∧
          Succeeds [rd, rd + 1] s t) ∧
      (s.modVal ≠ 0 →
        padd s.modVal s.caVal ⟨s.regVal rs1, s.regVal (rs1 + 1)⟩ ⟨s.regVal rs2, s.regVal (rs2 + 1)⟩ = none →
        ∃ t, exec (.padd rd rs1 rs2) s = .next t ∧ FailsWith .nopoint s t) ∧
      (s.modVal = 0 → ∃ t, exec (.padd rd rs1 rs2) s = .next t ∧ FailsWith .divzero s t)) ∧
    (rd.val % 2 = 1 ∨ rs1.val % 2 = 1 ∨ rs2.val % 2 = 1 →
      decode (assemble ⟨0x20, rd, rs1, rs2, 0, 0⟩) = .error .oddPointField) ∧
    (∀ rx : RegIdx, rx ≠ 0 → decode (assemble ⟨0x20, rd, rs1, rs2, rx, 0⟩) = .error .mustBeZero) ∧
    (∀ (m A : Nat) (p q : Point), 3 ≤ m → (∀ d, d ∣ m → d = 1 ∨ d = m) →
      (padd m A p q = none ↔ p ≠ q ∧ p.x % m = q.x % m ∨ p = q ∧ 2 * p.y % m = 0)) ∧
    (∀ (A : Nat) (p q : Point), padd 1 A p q = some ⟨0, 0⟩)

/-- O22. 42_curve R143, PDBL: encoding, the double of the point with frame, NOPOINT, zero modulus, odd fields illegal, and
the same outcome as PADD of the point with itself. -/
def Obligations.PdblWritesDoubleOrNopoint : Prop :=
  ∀ (rd rs1 : RegIdx) (s : State), Shaped s →
    (rd.val % 2 = 0 → rs1.val % 2 = 0 →
      decode (assemble ⟨0x21, rd, rs1, 0, 0, 0⟩) = .ok (.pdbl rd rs1) ∧
      (∀ r, s.modVal ≠ 0 →
        padd s.modVal s.caVal ⟨s.regVal rs1, s.regVal (rs1 + 1)⟩ ⟨s.regVal rs1, s.regVal (rs1 + 1)⟩ = some r →
        ∃ t, exec (.pdbl rd rs1) s = .next t ∧ t.regVal rd = r.x ∧ t.regVal (rd + 1) = r.y ∧
          Succeeds [rd, rd + 1] s t) ∧
      (s.modVal ≠ 0 → Nat.gcd (2 * s.regVal (rs1 + 1)) s.modVal ≠ 1 →
        ∃ t, exec (.pdbl rd rs1) s = .next t ∧ FailsWith .nopoint s t) ∧
      (s.modVal = 0 → ∃ t, exec (.pdbl rd rs1) s = .next t ∧ FailsWith .divzero s t) ∧
      exec (.pdbl rd rs1) s = exec (.padd rd rs1 rs1) s) ∧
    (rd.val % 2 = 1 ∨ rs1.val % 2 = 1 →
      decode (assemble ⟨0x21, rd, rs1, 0, 0, 0⟩) = .error .oddPointField)

/-- O23. 42_curve R145: scalar multiplication, read from the scalar's low bit up: 0 gives nothing, 1 gives P raw, 2k
doubles k·P, and 2k + 1 doubles k·P and then adds P; a failure on the way is the failure of the whole. -/
def Obligations.SmulIsDoubleAndAdd : Prop :=
  ∀ (m A : Nat) (p : Point),
    smul m A p 0 = none ∧
    smul m A p 1 = some p ∧
    ∀ k, 1 ≤ k →
      smul m A p (2 * k) = (smul m A p k).bind (fun acc => padd m A acc acc) ∧
      smul m A p (2 * k + 1) =
        ((smul m A p k).bind (fun acc => padd m A acc acc)).bind (fun dbl => padd m A dbl p)

/-- O24. 42_curve R144, PMUL: encoding, the multiple of the point with frame, scalar 1 giving the point raw, NOPOINT (for
scalar 0 always), zero modulus before the scalar check, odd fields illegal, any scalar register legal. -/
def Obligations.PmulWritesMultipleOrNopoint : Prop :=
  ∀ (rd rs1 rs2 : RegIdx) (s : State), Shaped s →
    (rd.val % 2 = 0 → rs1.val % 2 = 0 →
      decode (assemble ⟨0x22, rd, rs1, rs2, 0, 0⟩) = .ok (.pmul rd rs1 rs2) ∧
      (∀ r, s.modVal ≠ 0 →
        smul s.modVal s.caVal ⟨s.regVal rs1, s.regVal (rs1 + 1)⟩ (s.regVal rs2) = some r →
        ∃ t, exec (.pmul rd rs1 rs2) s = .next t ∧ t.regVal rd = r.x ∧ t.regVal (rd + 1) = r.y ∧
          Succeeds [rd, rd + 1] s t) ∧
      (s.modVal ≠ 0 → s.regVal rs2 = 1 →
        ∃ t, exec (.pmul rd rs1 rs2) s = .next t ∧ t.regVal rd = s.regVal rs1 ∧
          t.regVal (rd + 1) = s.regVal (rs1 + 1) ∧ Succeeds [rd, rd + 1] s t) ∧
      (s.modVal ≠ 0 →
        s.regVal rs2 = 0 ∨ smul s.modVal s.caVal ⟨s.regVal rs1, s.regVal (rs1 + 1)⟩ (s.regVal rs2) = none →
        ∃ t, exec (.pmul rd rs1 rs2) s = .next t ∧ FailsWith .nopoint s t) ∧
      (s.modVal = 0 → ∃ t, exec (.pmul rd rs1 rs2) s = .next t ∧ FailsWith .divzero s t)) ∧
    (rd.val % 2 = 1 ∨ rs1.val % 2 = 1 →
      decode (assemble ⟨0x22, rd, rs1, rs2, 0, 0⟩) = .error .oddPointField)

/-- O25. 42_curve R148: the sum of two reduced points on one curve is on that curve. -/
def Obligations.PaddStaysOnCurve : Prop :=
  ∀ (m A b : Nat) (p q r : Point), 1 ≤ m → p.x < m → p.y < m → q.x < m → q.y < m →
    OnCurve m A b p → OnCurve m A b q → padd m A p q = some r → OnCurve m A b r

/-- O26. 42_curve R148: point addition is symmetric, failures included, for any raw coordinates. -/
def Obligations.PaddIsSymmetric : Prop :=
  ∀ (m A : Nat) (p q : Point), 1 ≤ m → padd m A p q = padd m A q p

/-- O27. 42_curve R148: scalar multiplication consistency. PMUL with k = 2 has the outcome of PADD P, P; with k = 3 it has
the outcome, point or NOPOINT, of adding P to the sum of P and P. -/
def Obligations.PmulByTwoAndThreeAgreeWithPadd : Prop :=
  ∀ (rd rs1 rs2 : RegIdx) (s : State), rd.val % 2 = 0 → rs1.val % 2 = 0 →
    (s.regVal rs2 = 2 → exec (.pmul rd rs1 rs2) s = exec (.padd rd rs1 rs1) s) ∧
    (s.modVal ≠ 0 → s.regVal rs2 = 3 →
      exec (.pmul rd rs1 rs2) s =
        finishPoint rd ((padd s.modVal s.caVal (s.point rs1) (s.point rs1)).bind
          fun dbl => padd s.modVal s.caVal dbl (s.point rs1)) s)

/-! ## Every command -/

/-- O28. 60_exceptions R162, R164: a legal command completes, and either writes its destination registers and nothing
else, or raises an error of its row and writes no register. -/
def Obligations.CommandsArePrecise : Prop :=
  ∀ (i : Instr) (s : State), i.wf = true →
    ∃ t, exec i s = .next t ∧ (Succeeds i.dests s t ∨ ∃ c ∈ i.errCodes, FailsWith c s t)

/-- O29. 41_ring R120, 42_curve R140: with MOD = 0 every ring and curve command raises DIVZERO, whatever its operands. -/
def Obligations.ZeroModulusRaisesDivzero : Prop :=
  ∀ (i : Instr) (s : State), i.wf = true → i.usesMod = true → s.modVal = 0 →
    ∃ t, exec i s = .next t ∧ FailsWith .divzero s t

/-- O30. 60_exceptions R168, 40_integer R100: what a command does depends on its source registers, on MOD for a ring or
curve command and on CA for a curve command, all read before any write, and on nothing else. -/
def Obligations.OutcomeDependsOnOperandsOnly : Prop :=
  ∀ (i : Instr) (s s' : State), i.wf = true → s.limbs = s'.limbs →
    (∀ r ∈ i.sources, s.reg r = s'.reg r) → (i.usesMod = true → s.mod = s'.mod) → (i.usesCa = true → s.ca = s'.ca) →
    ∃ t t', exec i s = .next t ∧ exec i s' = .next t' ∧
      ((Succeeds i.dests s t ∧ Succeeds i.dests s' t' ∧ ∀ d ∈ i.dests, t.reg d = t'.reg d) ∨
        ∃ c, FailsWith c s t ∧ FailsWith c s' t')

/-! ## The engine step -/

/-- O31. 10_state R37, 30_encoding R90: when the engine moves and the pending word decodes, the step is the execution of
the decoded command (the next delay drawn before it, if an input was ready too: log entry 3). -/
def Obligations.StepExecutesPendingCommand : Prop :=
  ∀ (s : State) (i : Instr), s.engineMoves → decode s.pend = .ok i → step s = exec i s.drawn

/-- O32. 30_encoding R88: when the engine moves and the pending word is illegal, the step raises ILLEGAL, whatever the
registers and MOD hold. -/
def Obligations.StepRaisesIllegal : Prop :=
  ∀ (s : State) (e : Illegal), s.engineMoves → decode s.pend = .error e →
    ∃ t, step s = .next t ∧ FailsWith .illegal s.drawn t

/-- O33. 20_memory R63, 60_exceptions R172: with a pending command and a non-held input both ready, either order is
admitted, as `delay` has it: any number of inputs may come before the engine step (log entry 3). -/
def Obligations.EitherOrderIsAdmitted : Prop :=
  ∀ s : State, s.engineReady = true → s.hostReady = true →
    step { s with delay := 0 } = engineStep { s with delay := Config.freeDelay s.draws, draws := s.draws + 1 } ∧
    ∀ n, step { s with delay := n + 1 } = hostStep { s with delay := n }

/-- O34. 60_exceptions R169: only an engine step sets ERR; it does so for the word that was pending, which it takes. -/
def Obligations.OnlyEngineSetsErr : Prop :=
  ∀ s t : State, step s = .next t → s.err = false → t.err = true →
    s.engineMoves ∧ t.errcmd = s.pend ∧ t.busy = false ∧ t.done = true ∧ t.inputs = s.inputs

/-- O35. 70_reset_and_hazards R204: a pending command is taken: with good inputs only, however many, after finitely many
steps, at most the delay and at most the number of inputs, the engine moves, with the same word pending and the same
operands, and completes it (the delay is log entry 3's, the bound log entry 10's). -/
def Obligations.PendingCommandIsTaken : Prop :=
  ∀ s : State, s.busy = true → s.rstN = true → (∀ x ∈ s.inputs, s.goodInput x) →
    ∃ k ≤ s.delay, k ≤ s.inputs.length ∧ ∃ u t, Host.Core.run Sys2Proof.core k s = .next u ∧ u.engineMoves ∧
      u.pend = s.pend ∧ u.regs = s.regs ∧ u.mod = s.mod ∧ u.ca = s.ca ∧ step u = .next t ∧ Completed t

/-! ## The bus -/

/-- O36. 20_memory R52, R55, R59: the transactions that are not bus errors are exactly the aligned 32-bit ones at a mapped
offset. -/
def Obligations.MappedTransactions : Prop :=
  ∀ (n : Nat) (addr : Addr) (size : Size), n ≤ 128 →
    ((target n addr size).isSome = true ↔
      size = .four ∧
        (addr.toNat ∈ [0x0000, 0x0004, 0x0008, 0x000C, 0x0010, 0x0014] ∨
          (∃ r < 16, ∃ i < n, addr.toNat = 0x1000 + 0x200 * r + 4 * i) ∨
          (∃ i < n, addr.toNat = 0x3000 + 4 * i) ∨ (∃ i < n, addr.toNat = 0x3200 + 4 * i)))

/-- O37. 20_memory R55, R58: a bad transaction gets BUSERR in every state, so it is never held, and when the host moves
with it next, the run ends in the host's fault (log entry 4). -/
def Obligations.BadTransactionIsBusError : Prop :=
  ∀ (s : State) (a : Addr) (z : Size) (d : Word), target s.limbs a z = none →
    busRead a z s = .buserr ∧ busWrite a z d s = .buserr ∧
    (s.rstN = true → (s.engineReady = true → s.delay ≠ 0) → ∀ rest,
      (s.inputs = .read a z :: rest → step s = .fault .busError) ∧
      (s.inputs = .write a z d :: rest → step s = .fault .busError))

/-- O38. 20_memory R56: what every mapped offset reads as, with no change of state; CMD and the windows are held while
BUSY = 1. -/
def Obligations.BusReadGivesTheMap : Prop :=
  ∀ s : State, s.limbs ≤ 128 →
    busRead 0x0000#16 .four s = .done (.data 0x534C0001#32) s ∧
    busRead 0x0004#16 .four s = .done (.data (BitVec.ofNat 32 (0x00100000 + s.limbs))) s ∧
    busRead 0x0008#16 .four s = .done (.data (BitVec.ofNat 32 (2 * s.ie.toNat))) s ∧
    busRead 0x000C#16 .four s =
      .done (.data (BitVec.ofNat 32
        (256 * s.errcode.code.toNat + 4 * s.err.toNat + 2 * s.done.toNat + s.busy.toNat))) s ∧
    busRead 0x0010#16 .four s = (if s.busy then .hold else .done (.data 0#32) s) ∧
    busRead 0x0014#16 .four s = .done (.data s.errcmd) s ∧
    (∀ i < s.limbs,
      (∀ r : RegIdx, busRead (BitVec.ofNat 16 (0x1000 + 0x200 * r.val + 4 * i)) .four s =
        if s.busy then .hold else .done (.data ((s.reg r).getD i 0#32)) s) ∧
      busRead (BitVec.ofNat 16 (0x3000 + 4 * i)) .four s =
        (if s.busy then .hold else .done (.data (s.mod.getD i 0#32)) s) ∧
      busRead (BitVec.ofNat 16 (0x3200 + 4 * i)) .four s =
        (if s.busy then .hold else .done (.data (s.ca.getD i 0#32)) s))

/-- O39. 20_memory R57, R61: a write to limb i of a register changes that limb only; held while BUSY = 1. -/
def Obligations.WindowWriteChangesOneLimb : Prop :=
  ∀ (s : State) (i : Nat) (d : Word), s.limbs ≤ 128 → i < s.limbs →
    (∀ r : RegIdx, busWrite (BitVec.ofNat 16 (0x1000 + 0x200 * r.val + 4 * i)) .four d s =
      if s.busy then .hold else .done .ok { s with regs := s.regs.set r.val ((s.reg r).set i d) }) ∧
    busWrite (BitVec.ofNat 16 (0x3000 + 4 * i)) .four d s =
      (if s.busy then .hold else .done .ok { s with mod := s.mod.set i d }) ∧
    busWrite (BitVec.ofNat 16 (0x3200 + 4 * i)) .four d s =
      (if s.busy then .hold else .done .ok { s with ca := s.ca.set i d })

/-- O40. 20_memory R57: ID, PARAM and ERRCMD ignore writes; 10_state R30: a write of d to STATUS clears the error state if
d[2] = 1 and DONE if d[1] = 1, at any time, and does nothing else; 10_state R28: a CTRL write without SRST sets IE. -/
def Obligations.ControlWrites : Prop :=
  ∀ (s : State) (d : Word),
    busWrite 0x0000#16 .four d s = .done .ok s ∧
    busWrite 0x0004#16 .four d s = .done .ok s ∧
    busWrite 0x0014#16 .four d s = .done .ok s ∧
    busWrite 0x000C#16 .four d s = .done .ok
      { s with
        err := s.err && !d[2]
        errcode := if d[2] then .none else s.errcode
        errcmd := if d[2] then 0#32 else s.errcmd
        done := s.done && !d[1] } ∧
    (d[0] = false → busWrite 0x0008#16 .four d s = .done .ok { s with ie := d[1] })

/-- O41. 10_state R36, 60_exceptions R165: a CMD write is held while BUSY = 1; else it latches the word, whatever it is,
or only sets DONE while ERR = 1. -/
def Obligations.CommandAcceptance : Prop :=
  ∀ (s : State) (c : Word),
    (s.busy = true → busWrite 0x0010#16 .four c s = .hold) ∧
    (s.busy = false → s.err = false →
      busWrite 0x0010#16 .four c s = .done .ok { s with pend := c, busy := true, done := false }) ∧
    (s.busy = false → s.err = true → busWrite 0x0010#16 .four c s = .done .ok { s with done := true })

/-- O42. 20_memory R60: a good transaction at a held location that meets BUSY = 1 waits: the engine moves, and the
transaction has had no effect and is still to come. -/
def Obligations.HeldTransactionWaits : Prop :=
  ∀ (s : State) (a : Addr) (z : Size) (d : Word) (rest : List Input) (l : Loc),
    s.busy = true → s.rstN = true → target s.limbs a z = some l → l.isHeld = true →
    s.inputs = .read a z :: rest ∨ s.inputs = .write a z d :: rest →
    step s = engineStep s ∧
      ∃ t, step s = .next t ∧ t.busy = false ∧ t.inputs = s.inputs ∧ t.responses = s.responses

/-- O43. 20_memory R64, point 2: a window read that follows a CMD write answers with the command's result. -/
def Obligations.WindowReadSeesCommandResult : Prop :=
  ∀ (s t : State) (c : Word) (a : Addr) (w : Window) (i : Nat) (rest : List Input),
    s.rstN = true → s.busy = false → s.err = false → target s.limbs a .four = some (.limb w i) →
    s.inputs = .write 0x0010#16 .four c :: .read a .four :: rest →
    engineStep { s with
      inputs := .read a .four :: rest, responses := s.responses ++ [.ok], pend := c, busy := true, done := false }
      = .next t →
    Host.Core.run Sys2Proof.core 3 s = .next { t with
      inputs := rest, responses := s.responses ++ [.ok, .data ((t.window w).getD i 0#32)] }

/-- O44. 60_exceptions R167: after an error a STATUS write with bit 2 set ends the error state, registers keep their
values, and the next CMD write is accepted. -/
def Obligations.ErrorReturn : Prop :=
  ∀ (s : State) (d c : Word) (rest : List Input), s.rstN = true → s.busy = false → s.err = true →
    d[2] = true → s.inputs = .write 0x000C#16 .four d :: .write 0x0010#16 .four c :: rest →
    (∃ t, step s = .next t ∧ t.err = false ∧ t.errcode = .none ∧ t.errcmd = 0#32 ∧
      t.regs = s.regs ∧ t.mod = s.mod ∧ t.ca = s.ca ∧ t.ie = s.ie ∧ t.pend = s.pend) ∧
    Host.Core.run Sys2Proof.core 2 s = .next { s with
      inputs := rest, responses := s.responses ++ [.ok, .ok]
      err := false, errcode := .none, errcmd := 0#32, pend := c, busy := true, done := false }

/-- O45. 30_encoding R94: `WR Rr, v` loads the register: once its N writes are performed, Rr holds v and every other
register is as before. -/
def Obligations.HostWriteLoadsRegister : Prop :=
  ∀ (s : State) (r : RegIdx) (v : Nat) (rest : List Input), Shaped s → s.limbs ≤ 128 → s.rstN = true → s.busy = false →
    v < 2 ^ (32 * s.limbs) → s.inputs = hostWR s.limbs r v ++ rest →
    ∃ t, Host.Core.run Sys2Proof.core s.limbs s = .next t ∧ t.regVal r = v ∧ t.inputs = rest ∧
      (∀ j, j ≠ r → t.reg j = s.reg j) ∧ t.mod = s.mod ∧ t.ca = s.ca ∧ t.err = s.err ∧ t.busy = false

/-- O46. 10_state R23, R24: MOD and CA are written by the host only. A step that changes one of them took an input, and
that input was a write to its window, a soft reset or the reset input. -/
def Obligations.OnlyHostWritesModAndCa : Prop :=
  ∀ s t : State, step s = .next t → t.mod ≠ s.mod ∨ t.ca ≠ s.ca →
    s.hostMoves ∧ ∃ x rest, s.inputs = x :: rest ∧
      ((∃ level, x = .rst level) ∨ (∃ d, x = .write 0x0008#16 .four d ∧ d[0] = true) ∨
        ∃ a d w i, x = .write a .four d ∧ target s.limbs a .four = some (.limb w i) ∧
          (w = .mod ∧ t.ca = s.ca ∨ w = .ca ∧ t.mod = s.mod))

/-- O47. 10_state R35, 60_exceptions R170: the interrupt output is IE AND DONE; it is high after every completed command
if IE = 1. -/
def Obligations.InterruptFollowsDone : Prop :=
  (∀ s : State, s.irq = (s.ie && s.done)) ∧
  ∀ s : State, s.engineMoves → ∃ t, step s = .next t ∧ t.irq = s.ie

/-! ## Reset -/

/-- O48. 70_reset_and_hazards R192: the reset state of an instance of any size, and of `State.reset`. -/
def Obligations.ResetState : Prop :=
  (∀ n, n ≤ 128 → InResetState (State.resetOf n) ∧ (State.resetOf n).limbs = n ∧
    (State.resetOf n).readLoc .id = 0x534C0001#32 ∧
    (State.resetOf n).readLoc .param = BitVec.ofNat 32 (0x00100000 + n)) ∧ InResetState State.reset

/-- O49. 70_reset_and_hazards R191: a CTRL write with data[0] = 1, whatever its other bits and whatever is pending,
completes with OK and leaves the reset state; LIMBS, the reset input and the surroundings are as before. -/
def Obligations.SoftReset : Prop :=
  ∀ (s : State) (d : Word), d[0] = true →
    ∃ t, busWrite 0x0008#16 .four d s = .done .ok t ∧ InResetState t ∧ t.limbs = s.limbs ∧ t.rstN = s.rstN ∧
      t.inputs = s.inputs ∧ t.responses = s.responses

/-- O50. 70_reset_and_hazards R190: while `rst_n` is 0 the block is in the reset state, a transaction then is refused, and
when `rst_n` has returned to 1 the block is in the reset state. -/
def Obligations.HardwareReset : Prop :=
  (∀ (s : State) (rest : List Input), s.hostMoves → s.inputs = .rst false :: rest →
    ∃ t, step s = .next t ∧ InResetState t ∧ t.limbs = s.limbs ∧ t.rstN = false ∧ t.inputs = rest) ∧
  (∀ (s : State) (rest : List Input), s.rstN = false → s.inputs = .rst true :: rest →
    ∃ t, step s = .next t ∧ InResetState t ∧ t.limbs = s.limbs ∧ t.rstN = true ∧ t.inputs = rest) ∧
  (∀ (s : State) (a : Addr) (z : Size) (d : Word) (rest : List Input), s.rstN = false →
    s.inputs = .read a z :: rest ∨ s.inputs = .write a z d :: rest →
    step s = .refused .transactionDuringReset)

/-- O51. 60_exceptions R179: with no command pending and nothing from outside, a step changes nothing. -/
def Obligations.IdleKeepsState : Prop :=
  ∀ s : State, s.busy = false → s.inputs = [] → step s = .next s

/-! ## Invariants of every step -/

/-- O52. The invariant holds at reset, for an instance of every size and for `State.reset`. -/
def Obligations.ResetMeetsInvariant : Prop :=
  (∀ n, 1 ≤ n → n ≤ 128 → StateInv (State.resetOf n)) ∧ StateInv State.reset

/-- O53. Every step keeps the invariant, from every state that meets it: LIMBS in range, registers of LIMBS limbs, no
pending command beside a recorded error, DONE clear while pending, PEND 0 when idle, ERRCODE and ERRCMD 0 without an
error, and the reset state while `rst_n` = 0. -/
def Obligations.StepKeepsInvariant : Prop :=
  ∀ s t : State, StateInv s → step s = .next t → StateInv t

/-- O54. 60_exceptions R162, R163: in every step the recorded error stays one that the recorded command word can raise;
ILLEGAL is recorded exactly for an illegal word. -/
def Obligations.StepKeepsErrorExplained : Prop :=
  ∀ s t : State, ErrorExplained s → step s = .next t → ErrorExplained t

/-- O55. 00_scope R5: LIMBS is fixed: no step changes it, a reset included. -/
def Obligations.LimbsNeverChanges : Prop :=
  ∀ s t : State, step s = .next t → t.limbs = s.limbs

/-- O56. 20_memory R63: transactions are performed one at a time and in order: a step leaves the inputs as they are or
takes the oldest. A read taken appends one answer with data, a write one OK, a level of `rst_n` none. -/
def Obligations.InputsTakenInOrder : Prop :=
  ∀ s t : State, step s = .next t →
    (t.inputs = s.inputs ∧ t.responses = s.responses) ∨
      ∃ x, s.inputs = x :: t.inputs ∧
        ((∃ level, x = .rst level) ∧ t.responses = s.responses ∨
          (∃ a z w, x = .read a z ∧ t.responses = s.responses ++ [.data w]) ∨
          ∃ a z d, x = .write a z d ∧ t.responses = s.responses ++ [.ok])

/-! ## Which words are no commands, and the host's step -/

/-- O57. 30_encoding R83, R86, R87, R88, R91: the illegal words are exactly those with a reserved opcode, a nonzero
reserved or must-be-zero field, an odd point field, or one destination twice. -/
def Obligations.IllegalWordsExactly : Prop :=
  ∀ f : Fields, (∃ e, decode (assemble f) = .error e) ↔
    f.op ∉ [0x01#8, 0x02#8, 0x03#8, 0x04#8, 0x05#8, 0x10#8, 0x11#8, 0x12#8, 0x13#8, 0x20#8, 0x21#8, 0x22#8] ∨
    f.res ≠ 0#8 ∨
    (f.op ∈ [0x01#8, 0x02#8, 0x03#8, 0x10#8, 0x11#8, 0x12#8, 0x20#8, 0x22#8] ∧ f.rx ≠ 0) ∨
    (f.op ∈ [0x13#8, 0x21#8] ∧ (f.rs2 ≠ 0 ∨ f.rx ≠ 0)) ∨
    (f.op = 0x20#8 ∧ (f.rd.val % 2 = 1 ∨ f.rs1.val % 2 = 1 ∨ f.rs2.val % 2 = 1)) ∨
    (f.op ∈ [0x21#8, 0x22#8] ∧ (f.rd.val % 2 = 1 ∨ f.rs1.val % 2 = 1)) ∨
    (f.op ∈ [0x04#8, 0x05#8] ∧ f.rd = f.rx)

/-- O58. 20_memory R61, R63: when the host moves, the step is the oldest transaction, performed whole as the port answers
it; the transaction is then gone and its answer is the newest one (log entries 2, 5). -/
def Obligations.HostStepPerformsTransaction : Prop :=
  ∀ (s t : State) (r : Response) (a : Addr) (z : Size) (d : Word) (rest : List Input), s.hostMoves → s.rstN = true →
    s.inputs = .read a z :: rest ∧ busRead a z s.drawn = .done r t ∨
      s.inputs = .write a z d :: rest ∧ busWrite a z d s.drawn = .done r t →
    step s = .next { t with inputs := rest, responses := s.responses ++ [r] }

/-! ## The host operations whose result is in the answers -/

/-- O59. 30_encoding R94, `RD Rr`: once its N reads are performed, the value of their answers is R[r], and nothing but the
lists of inputs and answers has changed. -/
def Obligations.HostReadGivesRegister : Prop :=
  ∀ (s : State) (r : RegIdx) (rest : List Input), Shaped s → s.limbs ≤ 128 → s.rstN = true → s.busy = false →
    s.inputs = hostRD s.limbs r ++ rest →
    ∃ answers, Host.Core.run Sys2Proof.core s.limbs s =
        .next { s with inputs := rest, responses := s.responses ++ answers } ∧
      answers.length = s.limbs ∧ hostRDValue answers = s.regVal r

/-- O60. 30_encoding R94, `WAIT`, and 70_reset_and_hazards R204: it repeats the STATUS read until bit 0 is 0, and it always
ends: with BUSY = 0, every poll but the last having read BUSY = 1, and what the host does next still to come. One poll ends
it with nothing pending, and with a command pending whose delay is over; a poll that comes before the engine step is
repeated, the delay counted down (log entries 3, 14). -/
def Obligations.WaitPollsUntilNotBusy : Prop :=
  ∀ s : State, s.rstN = true →
    (∃ t polls last, hostWAIT s = .next t ∧ t.busy = false ∧ t.inputs = s.inputs ∧
      t.responses = s.responses ++ polls ++ [.data last] ∧ last[0] = false ∧
      polls.length = (if s.busy then s.delay else 0) ∧ ∀ a ∈ polls, ∃ w, a = .data w ∧ w[0] = true) ∧
    (s.busy = false → hostWAIT s = .next { s with responses := s.responses ++ [.data s.statusWord] }) ∧
    (s.busy = true → s.delay = 0 →
      ∃ u, engineStep { s with inputs := readWord 0x000C :: s.inputs }.redraw = .next u ∧
        hostWAIT s = .next { u with inputs := s.inputs, responses := s.responses ++ [.data u.statusWord] }) ∧
    (∀ d, s.busy = true → s.delay = d + 1 →
      hostWAIT s = hostWAIT { s with responses := s.responses ++ [.data s.statusWord], delay := d })
end

