-- ==== Sys2Proof/Laws/State.lean ====
section
/-! SUPPORT. What each field of State is after each update: one lemma per field per update, so that no proof unfolds a
record update. -/

namespace Sys2Proof.Machine

open Sys2Proof

section
variable (s : State) (i : RegIdx) (b : Big)

@[simp] theorem State.setReg_limbs : (s.setReg i b).limbs = s.limbs := rfl
@[simp] theorem State.setReg_regs : (s.setReg i b).regs = s.regs.set i.val b := rfl
@[simp] theorem State.setReg_mod : (s.setReg i b).mod = s.mod := rfl
@[simp] theorem State.setReg_ca : (s.setReg i b).ca = s.ca := rfl
@[simp] theorem State.setReg_ie : (s.setReg i b).ie = s.ie := rfl
@[simp] theorem State.setReg_busy : (s.setReg i b).busy = s.busy := rfl
@[simp] theorem State.setReg_done : (s.setReg i b).done = s.done := rfl
@[simp] theorem State.setReg_err : (s.setReg i b).err = s.err := rfl
@[simp] theorem State.setReg_errcode : (s.setReg i b).errcode = s.errcode := rfl
@[simp] theorem State.setReg_errcmd : (s.setReg i b).errcmd = s.errcmd := rfl
@[simp] theorem State.setReg_pend : (s.setReg i b).pend = s.pend := rfl
@[simp] theorem State.setReg_rstN : (s.setReg i b).rstN = s.rstN := rfl
@[simp] theorem State.setReg_inputs : (s.setReg i b).inputs = s.inputs := rfl
@[simp] theorem State.setReg_responses : (s.setReg i b).responses = s.responses := rfl
@[simp] theorem State.setReg_delay : (s.setReg i b).delay = s.delay := rfl
@[simp] theorem State.setReg_draws : (s.setReg i b).draws = s.draws := rfl

end

section
variable (s : State) (i : RegIdx) (v : Nat)

@[simp] theorem State.writeReg_limbs : (s.writeReg i v).limbs = s.limbs := rfl
@[simp] theorem State.writeReg_regs : (s.writeReg i v).regs = s.regs.set i.val (bigOfNat s.limbs v) := rfl
@[simp] theorem State.writeReg_mod : (s.writeReg i v).mod = s.mod := rfl
@[simp] theorem State.writeReg_ca : (s.writeReg i v).ca = s.ca := rfl
@[simp] theorem State.writeReg_ie : (s.writeReg i v).ie = s.ie := rfl
@[simp] theorem State.writeReg_busy : (s.writeReg i v).busy = s.busy := rfl
@[simp] theorem State.writeReg_done : (s.writeReg i v).done = s.done := rfl
@[simp] theorem State.writeReg_err : (s.writeReg i v).err = s.err := rfl
@[simp] theorem State.writeReg_errcode : (s.writeReg i v).errcode = s.errcode := rfl
@[simp] theorem State.writeReg_errcmd : (s.writeReg i v).errcmd = s.errcmd := rfl
@[simp] theorem State.writeReg_pend : (s.writeReg i v).pend = s.pend := rfl
@[simp] theorem State.writeReg_rstN : (s.writeReg i v).rstN = s.rstN := rfl
@[simp] theorem State.writeReg_inputs : (s.writeReg i v).inputs = s.inputs := rfl
@[simp] theorem State.writeReg_responses : (s.writeReg i v).responses = s.responses := rfl
@[simp] theorem State.writeReg_delay : (s.writeReg i v).delay = s.delay := rfl
@[simp] theorem State.writeReg_draws : (s.writeReg i v).draws = s.draws := rfl

end

section
variable (s : State)

@[simp] theorem State.complete_limbs : s.complete.limbs = s.limbs := rfl
@[simp] theorem State.complete_regs : s.complete.regs = s.regs := rfl
@[simp] theorem State.complete_mod : s.complete.mod = s.mod := rfl
@[simp] theorem State.complete_ca : s.complete.ca = s.ca := rfl
@[simp] theorem State.complete_ie : s.complete.ie = s.ie := rfl
@[simp] theorem State.complete_busy : s.complete.busy = false := rfl
@[simp] theorem State.complete_done : s.complete.done = true := rfl
@[simp] theorem State.complete_err : s.complete.err = s.err := rfl
@[simp] theorem State.complete_errcode : s.complete.errcode = s.errcode := rfl
@[simp] theorem State.complete_errcmd : s.complete.errcmd = s.errcmd := rfl
@[simp] theorem State.complete_pend : s.complete.pend = 0#32 := rfl
@[simp] theorem State.complete_rstN : s.complete.rstN = s.rstN := rfl
@[simp] theorem State.complete_inputs : s.complete.inputs = s.inputs := rfl
@[simp] theorem State.complete_responses : s.complete.responses = s.responses := rfl
@[simp] theorem State.complete_delay : s.complete.delay = s.delay := rfl
@[simp] theorem State.complete_draws : s.complete.draws = s.draws := rfl

end

section
variable (s : State) (c : ErrCode)

@[simp] theorem State.raiseCmdError_limbs : (s.raiseCmdError c).limbs = s.limbs := rfl
@[simp] theorem State.raiseCmdError_regs : (s.raiseCmdError c).regs = s.regs := rfl
@[simp] theorem State.raiseCmdError_mod : (s.raiseCmdError c).mod = s.mod := rfl
@[simp] theorem State.raiseCmdError_ca : (s.raiseCmdError c).ca = s.ca := rfl
@[simp] theorem State.raiseCmdError_ie : (s.raiseCmdError c).ie = s.ie := rfl
@[simp] theorem State.raiseCmdError_busy : (s.raiseCmdError c).busy = false := rfl
@[simp] theorem State.raiseCmdError_done : (s.raiseCmdError c).done = true := rfl
@[simp] theorem State.raiseCmdError_err : (s.raiseCmdError c).err = true := rfl
@[simp] theorem State.raiseCmdError_errcode : (s.raiseCmdError c).errcode = c := rfl
@[simp] theorem State.raiseCmdError_errcmd : (s.raiseCmdError c).errcmd = s.pend := rfl
@[simp] theorem State.raiseCmdError_pend : (s.raiseCmdError c).pend = 0#32 := rfl
@[simp] theorem State.raiseCmdError_rstN : (s.raiseCmdError c).rstN = s.rstN := rfl
@[simp] theorem State.raiseCmdError_inputs : (s.raiseCmdError c).inputs = s.inputs := rfl
@[simp] theorem State.raiseCmdError_responses : (s.raiseCmdError c).responses = s.responses := rfl
@[simp] theorem State.raiseCmdError_delay : (s.raiseCmdError c).delay = s.delay := rfl
@[simp] theorem State.raiseCmdError_draws : (s.raiseCmdError c).draws = s.draws := rfl

end

section
variable (s : State)

@[simp] theorem State.clearError_limbs : s.clearError.limbs = s.limbs := rfl
@[simp] theorem State.clearError_regs : s.clearError.regs = s.regs := rfl
@[simp] theorem State.clearError_mod : s.clearError.mod = s.mod := rfl
@[simp] theorem State.clearError_ca : s.clearError.ca = s.ca := rfl
@[simp] theorem State.clearError_ie : s.clearError.ie = s.ie := rfl
@[simp] theorem State.clearError_busy : s.clearError.busy = s.busy := rfl
@[simp] theorem State.clearError_done : s.clearError.done = s.done := rfl
@[simp] theorem State.clearError_err : s.clearError.err = false := rfl
@[simp] theorem State.clearError_errcode : s.clearError.errcode = .none := rfl
@[simp] theorem State.clearError_errcmd : s.clearError.errcmd = 0#32 := rfl
@[simp] theorem State.clearError_pend : s.clearError.pend = s.pend := rfl
@[simp] theorem State.clearError_rstN : s.clearError.rstN = s.rstN := rfl
@[simp] theorem State.clearError_inputs : s.clearError.inputs = s.inputs := rfl
@[simp] theorem State.clearError_responses : s.clearError.responses = s.responses := rfl
@[simp] theorem State.clearError_delay : s.clearError.delay = s.delay := rfl
@[simp] theorem State.clearError_draws : s.clearError.draws = s.draws := rfl

end

section
variable (s : State)

@[simp] theorem State.clearDone_limbs : s.clearDone.limbs = s.limbs := rfl
@[simp] theorem State.clearDone_regs : s.clearDone.regs = s.regs := rfl
@[simp] theorem State.clearDone_mod : s.clearDone.mod = s.mod := rfl
@[simp] theorem State.clearDone_ca : s.clearDone.ca = s.ca := rfl
@[simp] theorem State.clearDone_ie : s.clearDone.ie = s.ie := rfl
@[simp] theorem State.clearDone_busy : s.clearDone.busy = s.busy := rfl
@[simp] theorem State.clearDone_done : s.clearDone.done = false := rfl
@[simp] theorem State.clearDone_err : s.clearDone.err = s.err := rfl
@[simp] theorem State.clearDone_errcode : s.clearDone.errcode = s.errcode := rfl
@[simp] theorem State.clearDone_errcmd : s.clearDone.errcmd = s.errcmd := rfl
@[simp] theorem State.clearDone_pend : s.clearDone.pend = s.pend := rfl
@[simp] theorem State.clearDone_rstN : s.clearDone.rstN = s.rstN := rfl
@[simp] theorem State.clearDone_inputs : s.clearDone.inputs = s.inputs := rfl
@[simp] theorem State.clearDone_responses : s.clearDone.responses = s.responses := rfl
@[simp] theorem State.clearDone_delay : s.clearDone.delay = s.delay := rfl
@[simp] theorem State.clearDone_draws : s.clearDone.draws = s.draws := rfl

end

section
variable (s : State)

@[simp] theorem State.toReset_limbs : s.toReset.limbs = s.limbs := rfl
@[simp] theorem State.toReset_regs : s.toReset.regs = Vector.replicate 16 (zeroBig s.limbs) := rfl
@[simp] theorem State.toReset_mod : s.toReset.mod = zeroBig s.limbs := rfl
@[simp] theorem State.toReset_ca : s.toReset.ca = zeroBig s.limbs := rfl
@[simp] theorem State.toReset_ie : s.toReset.ie = false := rfl
@[simp] theorem State.toReset_busy : s.toReset.busy = false := rfl
@[simp] theorem State.toReset_done : s.toReset.done = false := rfl
@[simp] theorem State.toReset_err : s.toReset.err = false := rfl
@[simp] theorem State.toReset_errcode : s.toReset.errcode = .none := rfl
@[simp] theorem State.toReset_errcmd : s.toReset.errcmd = 0#32 := rfl
@[simp] theorem State.toReset_pend : s.toReset.pend = 0#32 := rfl
@[simp] theorem State.toReset_rstN : s.toReset.rstN = s.rstN := rfl
@[simp] theorem State.toReset_inputs : s.toReset.inputs = s.inputs := rfl
@[simp] theorem State.toReset_responses : s.toReset.responses = s.responses := rfl
@[simp] theorem State.toReset_delay : s.toReset.delay = s.delay := rfl
@[simp] theorem State.toReset_draws : s.toReset.draws = s.draws := rfl

end

section
variable (s : State)

@[simp] theorem State.redraw_limbs : s.redraw.limbs = s.limbs := rfl
@[simp] theorem State.redraw_regs : s.redraw.regs = s.regs := rfl
@[simp] theorem State.redraw_mod : s.redraw.mod = s.mod := rfl
@[simp] theorem State.redraw_ca : s.redraw.ca = s.ca := rfl
@[simp] theorem State.redraw_ie : s.redraw.ie = s.ie := rfl
@[simp] theorem State.redraw_busy : s.redraw.busy = s.busy := rfl
@[simp] theorem State.redraw_done : s.redraw.done = s.done := rfl
@[simp] theorem State.redraw_err : s.redraw.err = s.err := rfl
@[simp] theorem State.redraw_errcode : s.redraw.errcode = s.errcode := rfl
@[simp] theorem State.redraw_errcmd : s.redraw.errcmd = s.errcmd := rfl
@[simp] theorem State.redraw_pend : s.redraw.pend = s.pend := rfl
@[simp] theorem State.redraw_rstN : s.redraw.rstN = s.rstN := rfl
@[simp] theorem State.redraw_inputs : s.redraw.inputs = s.inputs := rfl
@[simp] theorem State.redraw_responses : s.redraw.responses = s.responses := rfl
@[simp] theorem State.redraw_delay : s.redraw.delay = Config.freeDelay s.draws := rfl
@[simp] theorem State.redraw_draws : s.redraw.draws = s.draws + 1 := rfl

@[simp] theorem State.countDown_limbs : s.countDown.limbs = s.limbs := rfl
@[simp] theorem State.countDown_regs : s.countDown.regs = s.regs := rfl
@[simp] theorem State.countDown_mod : s.countDown.mod = s.mod := rfl
@[simp] theorem State.countDown_ca : s.countDown.ca = s.ca := rfl
@[simp] theorem State.countDown_ie : s.countDown.ie = s.ie := rfl
@[simp] theorem State.countDown_busy : s.countDown.busy = s.busy := rfl
@[simp] theorem State.countDown_done : s.countDown.done = s.done := rfl
@[simp] theorem State.countDown_err : s.countDown.err = s.err := rfl
@[simp] theorem State.countDown_errcode : s.countDown.errcode = s.errcode := rfl
@[simp] theorem State.countDown_errcmd : s.countDown.errcmd = s.errcmd := rfl
@[simp] theorem State.countDown_pend : s.countDown.pend = s.pend := rfl
@[simp] theorem State.countDown_rstN : s.countDown.rstN = s.rstN := rfl
@[simp] theorem State.countDown_inputs : s.countDown.inputs = s.inputs := rfl
@[simp] theorem State.countDown_responses : s.countDown.responses = s.responses := rfl
@[simp] theorem State.countDown_delay : s.countDown.delay = s.delay - 1 := rfl
@[simp] theorem State.countDown_draws : s.countDown.draws = s.draws := rfl

end

section
variable (s : State) (r : Response)

@[simp] theorem State.respond_limbs : (s.respond r).limbs = s.limbs := rfl
@[simp] theorem State.respond_regs : (s.respond r).regs = s.regs := rfl
@[simp] theorem State.respond_mod : (s.respond r).mod = s.mod := rfl
@[simp] theorem State.respond_ca : (s.respond r).ca = s.ca := rfl
@[simp] theorem State.respond_ie : (s.respond r).ie = s.ie := rfl
@[simp] theorem State.respond_busy : (s.respond r).busy = s.busy := rfl
@[simp] theorem State.respond_done : (s.respond r).done = s.done := rfl
@[simp] theorem State.respond_err : (s.respond r).err = s.err := rfl
@[simp] theorem State.respond_errcode : (s.respond r).errcode = s.errcode := rfl
@[simp] theorem State.respond_errcmd : (s.respond r).errcmd = s.errcmd := rfl
@[simp] theorem State.respond_pend : (s.respond r).pend = s.pend := rfl
@[simp] theorem State.respond_rstN : (s.respond r).rstN = s.rstN := rfl
@[simp] theorem State.respond_inputs : (s.respond r).inputs = s.inputs := rfl
@[simp] theorem State.respond_responses : (s.respond r).responses = s.responses ++ [r] := rfl
@[simp] theorem State.respond_delay : (s.respond r).delay = s.delay := rfl
@[simp] theorem State.respond_draws : (s.respond r).draws = s.draws := rfl

end

section
variable (s : State)

@[simp] theorem State.popInput_limbs : s.popInput.limbs = s.limbs := rfl
@[simp] theorem State.popInput_regs : s.popInput.regs = s.regs := rfl
@[simp] theorem State.popInput_mod : s.popInput.mod = s.mod := rfl
@[simp] theorem State.popInput_ca : s.popInput.ca = s.ca := rfl
@[simp] theorem State.popInput_ie : s.popInput.ie = s.ie := rfl
@[simp] theorem State.popInput_busy : s.popInput.busy = s.busy := rfl
@[simp] theorem State.popInput_done : s.popInput.done = s.done := rfl
@[simp] theorem State.popInput_err : s.popInput.err = s.err := rfl
@[simp] theorem State.popInput_errcode : s.popInput.errcode = s.errcode := rfl
@[simp] theorem State.popInput_errcmd : s.popInput.errcmd = s.errcmd := rfl
@[simp] theorem State.popInput_pend : s.popInput.pend = s.pend := rfl
@[simp] theorem State.popInput_rstN : s.popInput.rstN = s.rstN := rfl
@[simp] theorem State.popInput_inputs : s.popInput.inputs = s.inputs.tail := rfl
@[simp] theorem State.popInput_responses : s.popInput.responses = s.responses := rfl
@[simp] theorem State.popInput_delay : s.popInput.delay = s.delay := rfl
@[simp] theorem State.popInput_draws : s.popInput.draws = s.draws := rfl

end

section
variable (s : State) (c : Word)

@[simp] theorem State.setPending_limbs : (s.setPending c).limbs = s.limbs := rfl
@[simp] theorem State.setPending_regs : (s.setPending c).regs = s.regs := rfl
@[simp] theorem State.setPending_mod : (s.setPending c).mod = s.mod := rfl
@[simp] theorem State.setPending_ca : (s.setPending c).ca = s.ca := rfl
@[simp] theorem State.setPending_ie : (s.setPending c).ie = s.ie := rfl
@[simp] theorem State.setPending_busy : (s.setPending c).busy = true := rfl
@[simp] theorem State.setPending_done : (s.setPending c).done = s.done := rfl
@[simp] theorem State.setPending_err : (s.setPending c).err = s.err := rfl
@[simp] theorem State.setPending_errcode : (s.setPending c).errcode = s.errcode := rfl
@[simp] theorem State.setPending_errcmd : (s.setPending c).errcmd = s.errcmd := rfl
@[simp] theorem State.setPending_pend : (s.setPending c).pend = c := rfl
@[simp] theorem State.setPending_rstN : (s.setPending c).rstN = true := rfl
@[simp] theorem State.setPending_inputs : (s.setPending c).inputs = s.inputs := rfl
@[simp] theorem State.setPending_responses : (s.setPending c).responses = s.responses := rfl
@[simp] theorem State.setPending_delay : (s.setPending c).delay = 0 := rfl
@[simp] theorem State.setPending_draws : (s.setPending c).draws = s.draws := rfl

end

/-- Updates of parts that a register read does not look at. -/
theorem State.reg_congr {s t : State} (h : t.regs = s.regs) (j : RegIdx) : t.reg j = s.reg j := by
  simp [State.reg, h]

section
variable (s : State)

@[simp] theorem State.complete_reg (j : RegIdx) : s.complete.reg j = s.reg j := rfl
@[simp] theorem State.raiseCmdError_reg (c : ErrCode) (j : RegIdx) : (s.raiseCmdError c).reg j = s.reg j := rfl
@[simp] theorem State.clearError_reg (j : RegIdx) : s.clearError.reg j = s.reg j := rfl
@[simp] theorem State.clearDone_reg (j : RegIdx) : s.clearDone.reg j = s.reg j := rfl
@[simp] theorem State.countDown_reg (j : RegIdx) : s.countDown.reg j = s.reg j := rfl
@[simp] theorem State.redraw_reg (j : RegIdx) : s.redraw.reg j = s.reg j := rfl
@[simp] theorem State.respond_reg (r : Response) (j : RegIdx) : (s.respond r).reg j = s.reg j := rfl
@[simp] theorem State.popInput_reg (j : RegIdx) : s.popInput.reg j = s.reg j := rfl
@[simp] theorem State.setPending_reg (c : Word) (j : RegIdx) : (s.setPending c).reg j = s.reg j := rfl

@[simp] theorem State.toReset_reg (j : RegIdx) : s.toReset.reg j = zeroBig s.limbs := by
  simp [State.reg]

/-- Reading a register after one was set. -/
theorem State.setReg_reg (i : RegIdx) (b : Big) (j : RegIdx) :
    (s.setReg i b).reg j = if j = i then b else s.reg j := by
  simp only [State.reg, State.setReg_regs, Vector.getElem_set]
  by_cases h : j = i
  · simp [h]
  · rw [if_neg (fun e : i.val = j.val => h (Fin.ext e.symm)), if_neg h]

/-- Reading a register after a value was written to one. -/
theorem State.writeReg_reg (i : RegIdx) (v : Nat) (j : RegIdx) :
    (s.writeReg i v).reg j = if j = i then bigOfNat s.limbs v else s.reg j :=
  s.setReg_reg i _ j

end

/-- The reset state of any size, register by register. -/
@[simp] theorem State.resetOf_reg (n : Nat) (j : RegIdx) : (State.resetOf n).reg j = zeroBig n := by
  simp [State.reg, State.resetOf]

end Sys2Proof.Machine
end

