-- ==== Sys2Proof/Laws/Bus.lean ====
section
/-! SUPPORT. The address map as the port uses it: where each window's limbs stand, and what a write to a window's limb
does. -/

namespace Sys2Proof.Machine

open Sys2Proof

/-- Limb `i` of the window in block `k` stands at offset 0x200·k + 4·i. -/
theorem target_window {n k i : Nat} {w : Window} (hn : n ≤ 128) (hw : windowAt k = some w) (hi : i < n) :
    target n (BitVec.ofNat 16 (0x200 * k + 4 * i)) .four = some (.limb w i) := by
  have hk : 8 ≤ k ∧ k < 26 := by
    unfold windowAt at hw
    split at hw
    · omega
    · split at hw
      · omega
      · split at hw
        · omega
        · cases hw
  have e : (BitVec.ofNat 16 (0x200 * k + 4 * i)).toNat = 0x200 * k + 4 * i := by
    rw [BitVec.toNat_ofNat]
    omega
  unfold target
  rw [if_pos ⟨rfl, by rw [e]; omega⟩, e]
  unfold locate
  rw [if_neg (by omega), show (0x200 * k + 4 * i) / 0x200 = k by omega, hw]
  simp only
  rw [show (0x200 * k + 4 * i) % 0x200 / 4 = i by omega, if_pos hi]

/-- Limb `i` of a window stands 4·i above the window's base. -/
theorem target_base {n i : Nat} (w : Window) (hn : n ≤ 128) (hi : i < n) :
    target n (BitVec.ofNat 16 (w.base + 4 * i)) .four = some (.limb w i) := by
  match w with
  | .gpr r =>
    rw [show (Window.gpr r).base = 0x200 * (8 + r.val) by simp only [Window.base]; omega]
    refine target_window hn ?_ hi
    unfold windowAt
    rw [dif_pos (by omega)]
    simp
  | .mod => exact target_window (k := 24) hn rfl hi
  | .ca => exact target_window (k := 25) hn rfl hi

/-- The control registers are mapped at their offsets, for every LIMBS. -/
theorem target_control (n : Nat) :
    target n 0x0000#16 .four = some .id ∧ target n 0x0004#16 .four = some .param ∧ target n 0x0008#16 .four = some .ctrl ∧
      target n 0x000C#16 .four = some .status ∧ target n 0x0010#16 .four = some .cmd ∧
      target n 0x0014#16 .four = some .errcmd := by
  refine ⟨?_, ?_, ?_, ?_, ?_, ?_⟩ <;> rfl

/-- Putting limbs into a window touches that window's register only. -/
theorem setWindow_window (s : State) (w v : Window) (b : Big) :
    (s.setWindow w b).window v = if v = w then b else s.window v := by
  match w, v with
  | .gpr r, .gpr q => simp [State.setWindow, State.window, State.setReg_reg]
  | .gpr _, .mod | .gpr _, .ca | .mod, .mod | .mod, .ca | .ca, .mod | .ca, .ca => simp [State.setWindow, State.window]
  | .mod, .gpr _ | .ca, .gpr _ => simp [State.setWindow, State.window, State.reg]

end Sys2Proof.Machine
end

