-- ==== Sys2Proof/Laws/Decode.lean ====
section
/-! SUPPORT. Fields and words: taking an assembled word apart, and what the decoder accepts. -/

namespace Sys2Proof

/-- Taking an assembled word apart gives its fields. -/
@[simp] theorem fieldsOf_assemble (f : Fields) : fieldsOf (assemble f) = f := by
  obtain ⟨op, rd, rs1, rs2, rx, res⟩ := f
  have h : ∀ (a : BitVec 8) (b c d e : BitVec 4) (g : BitVec 8),
      (a ++ b ++ c ++ d ++ e ++ g : BitVec 32).toNat
        = a.toNat * 2 ^ 24 + b.toNat * 2 ^ 20 + c.toNat * 2 ^ 16 + d.toNat * 2 ^ 12 + e.toNat * 2 ^ 8 + g.toNat := by
    intro a b c d e g
    simp only [BitVec.toNat_append]
    have ha := a.isLt; have hb := b.isLt; have hc := c.isLt; have hd := d.isLt; have he := e.isLt
    have hg := g.isLt
    rw [← Nat.shiftLeft_add_eq_or_of_lt hb, ← Nat.shiftLeft_add_eq_or_of_lt hc, ← Nat.shiftLeft_add_eq_or_of_lt hd,
      ← Nat.shiftLeft_add_eq_or_of_lt he, ← Nat.shiftLeft_add_eq_or_of_lt hg]
    simp only [Nat.shiftLeft_eq]
    omega
  have hop := op.isLt; have hrd := rd.isLt; have h1 := rs1.isLt; have h2 := rs2.isLt
  have hx := rx.isLt; have hres := res.isLt
  simp only [fieldsOf, assemble, regField, Fields.mk.injEq]
  refine ⟨?_, ?_, ?_, ?_, ?_, ?_⟩ <;>
    first
      | (apply BitVec.eq_of_toNat_eq
         rw [BitVec.extractLsb'_toNat, h]
         simp only [BitVec.toNat_ofFin, Nat.shiftRight_eq_div_pow]
         omega)
      | (apply Fin.ext
         change (BitVec.extractLsb' _ _ _).toNat = _
         rw [BitVec.extractLsb'_toNat, h]
         simp only [BitVec.toNat_ofFin, Nat.shiftRight_eq_div_pow]
         omega)

/-- Putting the fields of a word together gives the word. -/
@[simp] theorem assemble_fieldsOf (c : Word) : assemble (fieldsOf c) = c := by
  simp only [assemble, fieldsOf, regField]
  apply BitVec.eq_of_toNat_eq
  have hlt := c.isLt
  simp only [BitVec.toNat_append]
  rw [← Nat.shiftLeft_add_eq_or_of_lt (BitVec.isLt _), ← Nat.shiftLeft_add_eq_or_of_lt (BitVec.isLt _),
    ← Nat.shiftLeft_add_eq_or_of_lt (BitVec.isLt _), ← Nat.shiftLeft_add_eq_or_of_lt (BitVec.isLt _),
    ← Nat.shiftLeft_add_eq_or_of_lt (BitVec.isLt _)]
  simp only [Nat.shiftLeft_eq, BitVec.extractLsb'_toNat, BitVec.ofFin_toFin, Nat.shiftRight_eq_div_pow]
  omega

/-- Where the decoder gives a command, the reserved bits are 0, the opcode map gives that command and it is well formed. -/
theorem decode_ok {c : Word} {i : Instr} (h : decode c = .ok i) :
    (fieldsOf c).res = 0#8 ∧ byOpcode (fieldsOf c) = .ok i ∧ i.wf = true := by
  unfold decode at h
  simp only at h
  split at h
  · rename_i hres
    refine ⟨hres, ?_⟩
    generalize byOpcode (fieldsOf c) = b at h
    match b, h with
    | .ok j, h =>
      unfold requireWellFormed at h
      simp only at h
      split at h
      · rename_i hw
        cases h
        exact ⟨rfl, hw⟩
      · cases j <;> simp at h
  · simp at h

/-- A decoded command is well formed (30_encoding R83, R91). -/
theorem wf_of_decode {c : Word} {i : Instr} (h : decode c = .ok i) : i.wf = true := (decode_ok h).2.2

/-- Decoding depends on a word through its fields only. -/
theorem decode_assemble (f : Fields) :
    decode (assemble f) = if f.res = 0#8 then requireWellFormed (byOpcode f) else .error .reservedBits := by
  simp [decode]

end Sys2Proof
end

