-- ==== Sys2Proof/Laws/Values.lean ====
section
/-! SUPPORT. The value of a big register and the limbs of a value: lengths, bounds and the round trip. -/

namespace Sys2Proof.Machine

open Sys2Proof

@[simp] theorem bigOfNat_length (n v : Nat) : (bigOfNat n v).length = n := by
  induction n generalizing v with
  | zero => rfl
  | succ n ih => simp [bigOfNat, ih]

@[simp] theorem zeroBig_length (n : Nat) : (zeroBig n).length = n := by simp [zeroBig]

@[simp] theorem bigVal_zeroBig (n : Nat) : bigVal (zeroBig n) = 0 := by
  induction n with
  | zero => rfl
  | succ n ih => rw [zeroBig, List.replicate_succ, bigVal]; simpa [zeroBig] using ih

/-- A register's value is below 2 to the number of its bits. -/
theorem bigVal_lt (b : Big) : bigVal b < 2 ^ (32 * b.length) := by
  induction b with
  | nil => simp [bigVal]
  | cons w ws ih =>
    have hw := w.isLt
    have hpow : 2 ^ (32 * (w :: ws).length) = 2 ^ 32 * 2 ^ (32 * ws.length) := by
      rw [← pow_add]; congr 1; simp; omega
    rw [hpow, bigVal]
    calc w.toNat + 2 ^ 32 * bigVal ws < 2 ^ 32 * (bigVal ws + 1) := by omega
      _ ≤ 2 ^ 32 * 2 ^ (32 * ws.length) := Nat.mul_le_mul_left _ ih

/-- Writing a value that fits and reading it back. -/
theorem bigVal_bigOfNat {n v : Nat} (h : v < 2 ^ (32 * n)) : bigVal (bigOfNat n v) = v := by
  induction n generalizing v with
  | zero => simp at h; simp [bigOfNat, bigVal, h]
  | succ n ih =>
    have hpow : 2 ^ (32 * (n + 1)) = 2 ^ 32 * 2 ^ (32 * n) := by rw [← pow_add]; congr 1; omega
    have hdiv : v / 2 ^ 32 < 2 ^ (32 * n) := Nat.div_lt_of_lt_mul (hpow ▸ h)
    rw [bigOfNat, bigVal, ih hdiv, BitVec.toNat_ofNat]
    exact Nat.mod_add_div v (2 ^ 32)

/-- The bound 2^W, written out. -/
theorem State.bound_eq (s : State) : s.bound = 2 ^ (32 * s.limbs) := rfl

/-- The bound is positive. -/
theorem State.bound_pos (s : State) : 0 < s.bound := Nat.pow_pos (by omega)

/-- A residue of a positive modulus is below it. -/
theorem residue_lt {m : Nat} (h : m ≠ 0) (v : Int) : residue v m < m := by
  have h1 := Int.emod_lt_of_pos v (show (0 : Int) < m by omega)
  have h0 := Int.emod_nonneg v (show (m : Int) ≠ 0 by omega)
  unfold residue
  omega

/-- A residue as an integer. -/
theorem residue_cast {m : Nat} (h : m ≠ 0) (v : Int) : (residue v m : Int) = v % m :=
  Int.toNat_of_nonneg (Int.emod_nonneg v (by omega))

/-- The residue of a natural number. -/
theorem residue_natCast (v m : Nat) : residue (v : Int) m = v % m := by
  unfold residue
  omega

end Sys2Proof.Machine
end

