-- ==== Sys2Proof/Laws/Ops.lean ====
section
/-! SUPPORT. One lemma per shared operation of the commands: what completing with results, and completing with an error,
do. -/

namespace Sys2Proof.Machine

open Sys2Proof

/-- Completing leaves the command completed. -/
theorem State.complete_completed (s : State) : Completed s.complete := ⟨rfl, rfl, rfl⟩

/-- A command error is entered as 60_exceptions R163 says. -/
theorem fail_spec (c : ErrCode) (s : State) : ∃ t, fail c s = .next t ∧ FailsWith c s t :=
  ⟨_, rfl, fun _ => rfl, ⟨rfl, rfl, rfl⟩, rfl, rfl, rfl, ⟨rfl, rfl, rfl, rfl, rfl, rfl, rfl, rfl, rfl⟩⟩

/-- The same, from the answer. -/
theorem failsWith_of_fail {c : ErrCode} {s t : State} (h : fail c s = .next t) : FailsWith c s t := by
  obtain ⟨u, hu, hf⟩ := fail_spec c s
  rw [hu] at h
  cases h
  exact hf

/-- Writing registers touches no other field and no register outside the list. -/
theorem writeRegs_frame (ws : List (RegIdx × Nat)) (s : State) :
    (∀ j, j ∉ ws.map Prod.fst → (s.writeRegs ws).reg j = s.reg j) ∧ SameContext s (s.writeRegs ws) ∧
      (s.writeRegs ws).err = s.err ∧ (s.writeRegs ws).errcode = s.errcode ∧ (s.writeRegs ws).errcmd = s.errcmd := by
  induction ws generalizing s with
  | nil => exact ⟨fun _ _ => rfl, ⟨rfl, rfl, rfl, rfl, rfl, rfl, rfl, rfl, rfl⟩, rfl, rfl, rfl⟩
  | cons w ws ih =>
    obtain ⟨hr, hc, he, hec, hem⟩ := ih (s.writeReg w.1 w.2)
    refine ⟨fun j hj => ?_, ?_, he, hec, hem⟩
    · simp only [List.map_cons, List.mem_cons, not_or] at hj
      exact (hr j hj.2).trans (by rw [State.writeReg_reg, if_neg hj.1])
    · exact ⟨hc.limbs, hc.mod, hc.ca, hc.ie, hc.rstN, hc.inputs, hc.responses, hc.delay, hc.draws⟩

/-- Completing with results changes the named registers only and records no error. -/
theorem succeed_frame (ws : List (RegIdx × Nat)) (s : State) :
    ∃ t, succeed ws s = .next t ∧ Succeeds (ws.map Prod.fst) s t := by
  obtain ⟨hr, hc, he, hec, hem⟩ := writeRegs_frame ws s
  exact ⟨_, rfl, hr, ⟨rfl, rfl, rfl⟩, he, hec, hem,
    ⟨hc.limbs, hc.mod, hc.ca, hc.ie, hc.rstN, hc.inputs, hc.responses, hc.delay, hc.draws⟩⟩

/-- Completing with one result. -/
theorem succeed_one {i : RegIdx} {v : Nat} {s : State} (h : v < 2 ^ (32 * s.limbs)) :
    ∃ t, succeed [(i, v)] s = .next t ∧ t.regVal i = v ∧ Succeeds [i] s t := by
  obtain ⟨t, ht, hs⟩ := succeed_frame [(i, v)] s
  refine ⟨t, ht, ?_, hs⟩
  cases ht
  change bigVal ((s.writeReg i v).reg i) = v
  rw [State.writeReg_reg, if_pos rfl, bigVal_bigOfNat h]

/-- Completing with two results in two different registers. -/
theorem succeed_two {i j : RegIdx} {v w : Nat} {s : State} (hij : i ≠ j) (hv : v < 2 ^ (32 * s.limbs))
    (hw : w < 2 ^ (32 * s.limbs)) :
    ∃ t, succeed [(i, v), (j, w)] s = .next t ∧ t.regVal i = v ∧ t.regVal j = w ∧ Succeeds [i, j] s t := by
  obtain ⟨t, ht, hs⟩ := succeed_frame [(i, v), (j, w)] s
  refine ⟨t, ht, ?_, ?_, hs⟩ <;> cases ht
  · change bigVal (((s.writeReg i v).writeReg j w).reg i) = v
    rw [State.writeReg_reg, if_neg hij, State.writeReg_reg, if_pos rfl, bigVal_bigOfNat hv]
  · change bigVal (((s.writeReg i v).writeReg j w).reg j) = w
    rw [State.writeReg_reg, if_pos rfl, State.writeReg_limbs, bigVal_bigOfNat hw]

/-- The two registers of a pair differ. -/
theorem pairHigh_ne (i : RegIdx) : i ≠ pairHigh i := by
  revert i
  decide

/-- A curve command ends with NOPOINT and no register written, or with its destination pair written. -/
theorem finishPoint_frame (rd : RegIdx) (r : Option Point) (s : State) :
    ∃ t, finishPoint rd r s = .next t ∧
      (Succeeds [rd, pairHigh rd] s t ∨ r = none ∧ FailsWith .nopoint s t) := by
  match r with
  | none =>
    obtain ⟨t, ht, hf⟩ := fail_spec .nopoint s
    exact ⟨t, ht, .inr ⟨rfl, hf⟩⟩
  | some p =>
    obtain ⟨t, ht, hs⟩ := succeed_frame [(rd, p.x), (pairHigh rd, p.y)] s
    exact ⟨t, ht, .inl hs⟩

/-- The values of the registers of a state with the right limb counts are below 2^W. -/
theorem Shaped.regVal_lt {s : State} (h : Shaped s) (i : RegIdx) : s.regVal i < 2 ^ (32 * s.limbs) := by
  have := bigVal_lt (s.reg i)
  rwa [h.regs i] at this

/-- The value of MOD is below 2^W. -/
theorem Shaped.modVal_lt {s : State} (h : Shaped s) : s.modVal < 2 ^ (32 * s.limbs) := by
  have := bigVal_lt s.mod
  rwa [h.mod] at this

/-- Setting a register to limbs of the right number keeps the limb counts. -/
theorem Shaped.setReg {s : State} (h : Shaped s) (i : RegIdx) {b : Big} (hb : b.length = s.limbs) :
    Shaped (s.setReg i b) where
  regs j := by
    rw [State.setReg_reg]
    split
    · exact hb
    · exact h.regs j
  mod := h.mod
  ca := h.ca

/-- Writing registers keeps the limb counts. -/
theorem Shaped.writeRegs {s : State} (h : Shaped s) (ws : List (RegIdx × Nat)) : Shaped (s.writeRegs ws) := by
  induction ws generalizing s with
  | nil => exact h
  | cons w ws ih => exact ih (h.setReg w.1 (by simp))

end Sys2Proof.Machine
end

