-- ==== Sys2Proof/Laws/Step.lean ====
section
/-! SUPPORT. What a step can do, said once: which agent moved, and what the outside world's move was. -/

namespace Sys2Proof.Machine

open Sys2Proof

/-- The engine's step is an ILLEGAL error or the execution of the decoded command. -/
theorem engineStep_eq (s : State) :
    (∃ e, decode s.pend = .error e ∧ engineStep s = fail .illegal s) ∨
      ∃ i, decode s.pend = .ok i ∧ i.wf = true ∧ engineStep s = exec i s := by
  unfold engineStep
  match h : decode s.pend with
  | .error e => exact .inl ⟨e, rfl, rfl⟩
  | .ok i => exact .inr ⟨i, rfl, wf_of_decode h, rfl⟩

/-- When the engine moves, the step is the engine's. -/
theorem step_of_engineMoves {s : State} (h : s.engineMoves) : step s = engineStep s.drawn := by
  obtain ⟨hb, hr, ht⟩ := h
  have he : s.engineReady = true := by simp [State.engineReady, hb, hr]
  cases hh : s.hostReady with
  | false => simp [step, State.drawn, he, hh]
  | true => simp [step, State.drawn, he, hh, ht hh]

/-- When the outside world moves, the step is its step. -/
theorem step_of_hostMoves {s : State} (h : s.hostMoves) : step s = hostStep s.drawn := by
  obtain ⟨hh, ht⟩ := h
  cases he : s.engineReady with
  | false => simp [step, State.drawn, he, hh]
  | true => simp [step, State.drawn, he, hh, ht he]

/-- What a step can do: the engine moves, the outside world moves, or the block is idle. -/
theorem step_cases (s : State) :
    (s.engineMoves ∧ step s = engineStep s.drawn) ∨ (s.hostMoves ∧ step s = hostStep s.drawn) ∨
      (s.engineReady = false ∧ s.hostReady = false ∧ step s = .next s) := by
  cases he : s.engineReady with
  | false =>
    cases hh : s.hostReady with
    | false => exact .inr (.inr ⟨rfl, rfl, by simp [step, he, hh]⟩)
    | true =>
      have hm : s.hostMoves := ⟨hh, by simp [he]⟩
      exact .inr (.inl ⟨hm, step_of_hostMoves hm⟩)
  | true =>
    have hbr : s.busy = true ∧ s.rstN = true := by simpa [State.engineReady] using he
    cases hh : s.hostReady with
    | false =>
      have hm : s.engineMoves := ⟨hbr.1, hbr.2, by simp [hh]⟩
      exact .inl ⟨hm, step_of_engineMoves hm⟩
    | true =>
      by_cases ht : s.delay = 0
      · have hm : s.engineMoves := ⟨hbr.1, hbr.2, fun _ => ht⟩
        exact .inl ⟨hm, step_of_engineMoves hm⟩
      · have hm : s.hostMoves := ⟨hh, fun _ => ht⟩
        exact .inr (.inl ⟨hm, step_of_hostMoves hm⟩)

/-- What a read does: a bus error, a wait, or an answer and no change. -/
theorem busRead_cases (a : Addr) (z : Size) (s : State) :
    (target s.limbs a z = none ∧ busRead a z s = .buserr) ∨
      (s.holds a z = true ∧ busRead a z s = .hold) ∨
      ∃ l, target s.limbs a z = some l ∧ busRead a z s = .done (.data (s.readLoc l)) s := by
  unfold busRead
  cases ht : target s.limbs a z with
  | none => exact .inl ⟨rfl, rfl⟩
  | some l =>
    cases hh : s.holds a z with
    | true => exact .inr (.inl ⟨rfl, by simp⟩)
    | false => exact .inr (.inr ⟨l, rfl, by simp⟩)

/-- What a write does: a bus error, a wait, or the write of its location. -/
theorem busWrite_cases (a : Addr) (z : Size) (d : Word) (s : State) :
    (target s.limbs a z = none ∧ busWrite a z d s = .buserr) ∨
      (s.holds a z = true ∧ busWrite a z d s = .hold) ∨
      ∃ l, target s.limbs a z = some l ∧ (l.isHeld && s.busy) = false ∧
        busWrite a z d s = .done .ok (s.writeLoc l d) := by
  unfold busWrite
  cases ht : target s.limbs a z with
  | none => exact .inl ⟨rfl, rfl⟩
  | some l =>
    cases hh : s.holds a z with
    | true => exact .inr (.inl ⟨rfl, by simp⟩)
    | false => exact .inr (.inr ⟨l, rfl, by simpa [State.holds, ht] using hh, by simp⟩)

/-- What the outside world's step can answer: nothing to do or a wait, the reset input, a read, or a write. -/
theorem hostStep_cases {s t : State} (h : hostStep s = .next t) :
    t = s ∨
      (∃ level rest, s.inputs = .rst level :: rest ∧ t = s.popInput.driveRst level) ∨
      (∃ a z l rest, s.inputs = .read a z :: rest ∧ s.rstN = true ∧ target s.limbs a z = some l ∧
        t = s.popInput.respond (.data (s.readLoc l))) ∨
      (∃ a z d l rest, s.inputs = .write a z d :: rest ∧ s.rstN = true ∧ target s.limbs a z = some l ∧
        (l.isHeld && s.busy) = false ∧ t = (s.writeLoc l d).popInput.respond .ok) := by
  unfold hostStep at h
  split at h
  · cases h; exact .inl rfl
  · rename_i level rest hi
    cases h; exact .inr (.inl ⟨level, rest, hi, rfl⟩)
  · rename_i a z rest hi
    split at h
    · rename_i hr
      obtain ⟨-, hb⟩ | ⟨-, hb⟩ | ⟨l, hl, hb⟩ := busRead_cases a z s <;> rw [hb] at h <;> cases h
      · exact .inl rfl
      · exact .inr (.inr (.inl ⟨a, z, l, rest, hi, hr, hl, rfl⟩))
    · cases h
  · rename_i a z d rest hi
    split at h
    · rename_i hr
      obtain ⟨-, hb⟩ | ⟨-, hb⟩ | ⟨l, hl, hf, hb⟩ := busWrite_cases a z d s <;> rw [hb] at h <;> cases h
      · exact .inl rfl
      · exact .inr (.inr (.inr ⟨a, z, d, l, rest, hi, hr, hl, hf, rfl⟩))
    · cases h

/-- A run of `k + 1` steps whose first answers a next state goes on from there. -/
theorem run_succ {k : Nat} {s t : State} (h : step s = .next t) :
    Host.Core.run Sys2Proof.core (k + 1) s = Host.Core.run Sys2Proof.core k t := by
  have h' : Sys2Proof.core.step s = .next t := h
  exact (Host.Core.run.eq_2 Sys2Proof.core s k).trans (by rw [h'])

/-- A run of no steps. -/
theorem run_zero (s : State) : Host.Core.run Sys2Proof.core 0 s = .next s := rfl

/-- Counting the delay down, or drawing the next one, changes nothing else. -/
theorem drawn_frame (s : State) : ∃ a n, s.drawn = { s with delay := a, draws := n } := by
  unfold State.drawn
  repeat' split
  · exact ⟨_, _, rfl⟩
  · exact ⟨s.delay - 1, s.draws, rfl⟩
  · exact ⟨s.delay, s.draws, rfl⟩

/-- With the host to move beside a pending command, the delay counts down. -/
theorem drawn_of_hostMoves {s : State} (h : s.hostMoves) (he : s.engineReady = true) : s.drawn = s.countDown := by
  simp [State.drawn, he, h.1, h.2 he]

/-- With nothing pending there is no choice of order. -/
theorem drawn_of_idle {s : State} (he : s.engineReady = false) : s.drawn = s := by
  simp [State.drawn, he]

section
variable (s : State)

@[simp] theorem State.drawn_limbs : s.drawn.limbs = s.limbs := by unfold State.drawn; (repeat' split) <;> rfl
@[simp] theorem State.drawn_regs : s.drawn.regs = s.regs := by unfold State.drawn; (repeat' split) <;> rfl
@[simp] theorem State.drawn_mod : s.drawn.mod = s.mod := by unfold State.drawn; (repeat' split) <;> rfl
@[simp] theorem State.drawn_ca : s.drawn.ca = s.ca := by unfold State.drawn; (repeat' split) <;> rfl
@[simp] theorem State.drawn_ie : s.drawn.ie = s.ie := by unfold State.drawn; (repeat' split) <;> rfl
@[simp] theorem State.drawn_busy : s.drawn.busy = s.busy := by unfold State.drawn; (repeat' split) <;> rfl
@[simp] theorem State.drawn_done : s.drawn.done = s.done := by unfold State.drawn; (repeat' split) <;> rfl
@[simp] theorem State.drawn_err : s.drawn.err = s.err := by unfold State.drawn; (repeat' split) <;> rfl
@[simp] theorem State.drawn_errcode : s.drawn.errcode = s.errcode := by unfold State.drawn; (repeat' split) <;> rfl
@[simp] theorem State.drawn_errcmd : s.drawn.errcmd = s.errcmd := by unfold State.drawn; (repeat' split) <;> rfl
@[simp] theorem State.drawn_pend : s.drawn.pend = s.pend := by unfold State.drawn; (repeat' split) <;> rfl
@[simp] theorem State.drawn_rstN : s.drawn.rstN = s.rstN := by unfold State.drawn; (repeat' split) <;> rfl
@[simp] theorem State.drawn_inputs : s.drawn.inputs = s.inputs := by unfold State.drawn; (repeat' split) <;> rfl
@[simp] theorem State.drawn_responses : s.drawn.responses = s.responses := by unfold State.drawn; (repeat' split) <;> rfl

@[simp] theorem State.drawn_reg (j : RegIdx) : s.drawn.reg j = s.reg j := State.reg_congr s.drawn_regs j
@[simp] theorem State.drawn_window (w : Window) : s.drawn.window w = s.window w := by cases w <;> simp [State.window]

end

/-- A write to a location leaves LIMBS, the reset input and the surroundings of SU-CORE alone. -/
theorem writeLoc_env (l : Loc) (d : Word) (s : State) :
    (s.writeLoc l d).limbs = s.limbs ∧ (s.writeLoc l d).rstN = s.rstN ∧ (s.writeLoc l d).inputs = s.inputs ∧
      (s.writeLoc l d).responses = s.responses ∧ (s.writeLoc l d).delay = s.delay ∧ (s.writeLoc l d).draws = s.draws := by
  have all : ∀ t : State, t = s → (t.limbs = s.limbs ∧ t.rstN = s.rstN ∧ t.inputs = s.inputs ∧
      t.responses = s.responses ∧ t.delay = s.delay ∧ t.draws = s.draws) := by rintro t rfl; simp
  match l with
  | .id | .param | .errcmd => exact all _ rfl
  | .ctrl => simp only [State.writeLoc, State.writeCtrl]; split <;> simp
  | .status =>
    simp only [State.writeLoc, State.writeStatus]
    split <;> split <;> simp
  | .cmd => simp only [State.writeLoc, State.accept]; split <;> simp
  | .limb w _ => cases w <;> simp [State.writeLoc, State.setWindow]

end Sys2Proof.Machine
end

