-- ==== Sys2Proof/Laws/HostOps.lean ====
section
/-! SUPPORT. One poll of `WAIT`: what its answer says, and what it does when it comes before the engine step or beside no
command. -/

namespace Sys2Proof.Machine

open Sys2Proof

/-- Bit 0 of the word STATUS reads as is BUSY (10_state R29). -/
@[simp] theorem statusWord_busy (s : State) : s.statusWord[0] = s.busy := by
  have h : ∀ (c : BitVec 4) (e d b : Bool),
      (0#20 ++ c ++ 0#5 ++ BitVec.ofBool e ++ BitVec.ofBool d ++ BitVec.ofBool b : BitVec 32)[0] = b := by decide
  exact h s.errcode.code s.err s.done s.busy

/-- `WAIT` is over when its newest poll reads bit 0 clear. -/
@[simp] theorem waitOver_append (as : List Response) (w : Word) : waitOver (as ++ [.data w]) = !w[0] := by
  simp [waitOver]

/-- A poll never waits: STATUS is not held (20_memory R60). -/
theorem poll_hostReady (s : State) : ({ s with inputs := readWord 0x000C :: s.inputs } : State).hostReady = true := by
  have ht : target s.limbs 0x000C#16 .four = some .status := (target_control _).2.2.2.1
  simp [State.hostReady, State.portBlocked, readWord, State.holds, ht, Loc.isHeld]

/-- The host's step with a poll next: the poll is gone and answered with STATUS, and nothing else changes. -/
theorem hostStep_poll {s : State} {rest : List Input} (hi : s.inputs = readWord 0x000C :: rest) (hr : s.rstN = true) :
    hostStep s = .next { s with inputs := rest, responses := s.responses ++ [.data s.statusWord] } := by
  have ht : target s.limbs 0x000C#16 .four = some .status := (target_control _).2.2.2.1
  have hb : busRead 0x000C#16 .four s = .done (.data s.statusWord) s := by
    simp [busRead, ht, State.holds, Loc.isHeld, State.readLoc]
  unfold hostStep
  rw [hi]
  show (if s.rstN then finishTransaction (busRead 0x000C#16 .four s) s else _) = _
  simp [hr, hb, finishTransaction, State.popInput, State.respond, hi]

/-- A poll with nothing pending reads STATUS and changes nothing else. -/
theorem hostPoll_idle {s : State} (hr : s.rstN = true) (hb : s.busy = false) :
    hostPoll s = .next { s with responses := s.responses ++ [.data s.statusWord] } := by
  have he : ({ s with inputs := readWord 0x000C :: s.inputs } : State).engineReady = false := by
    simp [State.engineReady, hb]
  have hs : step { s with inputs := readWord 0x000C :: s.inputs } =
      .next { s with responses := s.responses ++ [.data s.statusWord] } := by
    rw [step_of_hostMoves ⟨poll_hostReady s, by simp [he]⟩, drawn_of_idle he]
    exact hostStep_poll (s := { s with inputs := readWord 0x000C :: s.inputs }) rfl hr
  simp [hostPoll, hs]

/-- A poll that comes before the engine step reads STATUS, and the delay has counted down. -/
theorem hostPoll_before_engine {s : State} (hr : s.rstN = true) (hb : s.busy = true) (hd : s.delay ≠ 0) :
    hostPoll s = .next { s with responses := s.responses ++ [.data s.statusWord], delay := s.delay - 1 } := by
  have he : ({ s with inputs := readWord 0x000C :: s.inputs } : State).engineReady = true := by
    simp [State.engineReady, hb, hr]
  have hm : ({ s with inputs := readWord 0x000C :: s.inputs } : State).hostMoves := ⟨poll_hostReady s, fun _ => hd⟩
  have hs : step { s with inputs := readWord 0x000C :: s.inputs } =
      .next { s with responses := s.responses ++ [.data s.statusWord], delay := s.delay - 1 } := by
    rw [step_of_hostMoves hm, drawn_of_hostMoves hm he]
    exact hostStep_poll (s := State.countDown { s with inputs := readWord 0x000C :: s.inputs }) rfl hr
  simp [hostPoll, hs]

end Sys2Proof.Machine
end

