-- ==== Sys2Proof/Laws/PerInstr.lean ====
section
/-! SUPPORT. Per command: the fields of its word are the fields the encoding table gives it. -/

namespace Sys2Proof.Laws.EncodedFields

open Sys2Proof

/-- The word of a command holds the command's fields, with the reserved bits 0 (30_encoding R81, R87). -/
def Statement (i : Instr) : Prop := fieldsOf (encode i) = i.fields ∧ (encode i).extractLsb' 24 8 = 0#8

/-- For any command. -/
theorem of_fields (i : Instr) (h : i.fields.res = 0#8) : Statement i := by
  have hf : fieldsOf (encode i) = i.fields := fieldsOf_assemble i.fields
  exact ⟨hf, by rw [← h, ← hf]; rfl⟩

theorem add (rd rs1 rs2 : RegIdx) : Statement (.add rd rs1 rs2) := of_fields _ rfl
theorem sub (rd rs1 rs2 : RegIdx) : Statement (.sub rd rs1 rs2) := of_fields _ rfl
theorem mul (rd rs1 rs2 : RegIdx) : Statement (.mul rd rs1 rs2) := of_fields _ rfl
theorem mulw (rd rx rs1 rs2 : RegIdx) : Statement (.mulw rd rx rs1 rs2) := of_fields _ rfl
theorem divrem (rd rx rs1 rs2 : RegIdx) : Statement (.divrem rd rx rs1 rs2) := of_fields _ rfl
theorem radd (rd rs1 rs2 : RegIdx) : Statement (.radd rd rs1 rs2) := of_fields _ rfl
theorem rsub (rd rs1 rs2 : RegIdx) : Statement (.rsub rd rs1 rs2) := of_fields _ rfl
theorem rmul (rd rs1 rs2 : RegIdx) : Statement (.rmul rd rs1 rs2) := of_fields _ rfl
theorem rinv (rd rs1 : RegIdx) : Statement (.rinv rd rs1) := of_fields _ rfl
theorem padd (rd rs1 rs2 : RegIdx) : Statement (.padd rd rs1 rs2) := of_fields _ rfl
theorem pdbl (rd rs1 : RegIdx) : Statement (.pdbl rd rs1) := of_fields _ rfl
theorem pmul (rd rs1 rs2 : RegIdx) : Statement (.pmul rd rs1 rs2) := of_fields _ rfl

end Sys2Proof.Laws.EncodedFields
end

