-- ==== Sys2Proof/Tests/Slice0.lean ====
section
/-! SUPPORT. Tests: ill-formed terms refused, words written out from the spec's encoding, the spec's vectors one step at
a time, and for every statement with hypotheses a concrete case that meets them. Expected results are those of
95_test_vectors; the vector's id stands in front of each test. -/

namespace Sys2Proof.Tests

open Sys2Proof Sys2Proof.Machine

-- Many of these theorems are evaluated by the kernel, each after the ones before it: checked at once they would only wait
-- for one another, each in a thread of its own.
set_option Elab.async false

/-! ## Helpers -/

/-- The reset state of `n` limbs with MOD, CA and some registers written. -/
def start (n modulus coeff : Nat) (ws : List (RegIdx × Nat)) : State :=
  { (State.resetOf n).writeRegs ws with mod := bigOfNat n modulus, ca := bigOfNat n coeff }

/-- The same with a command pending, inputs waiting and a given delay: so many inputs come first. -/
def pending (c : Word) (inputs : List Input) (delay : Nat) (s : State) : State :=
  { s with pend := c, busy := true, inputs := inputs, delay := delay }

/-- The same with inputs waiting and nothing pending. -/
def waiting (inputs : List Input) (s : State) : State := { s with inputs := inputs }

/-- A state with an error recorded, as after vector I2 (95_test_vectors). -/
def failed (s : State) : State := { s with err := true, done := true, errcode := .overflow, errcmd := 0x00021301#32 }

/-- The next state, if there is one. -/
def nextOf : Host.Outcome State Fault Refusal → Option State
  | .next t => some t
  | .fault _ => none
  | .refused _ => none

/-- The run ended in a fault, or was refused. -/
def stopOf : Host.Outcome State Fault Refusal → Option (Fault ⊕ Refusal)
  | .next _ => none
  | .fault f => some (.inl f)
  | .refused r => some (.inr r)

/-- Execute one command word as the vectors do: accepted, then one engine step. -/
def run1 (c : Word) (s : State) : Host.Outcome State Fault Refusal := step (s.withFetchWord 32 c.toNat)

/-- What a vector shows: some registers, STATUS and ERRCMD. -/
def shown (rs : List RegIdx) (o : Host.Outcome State Fault Refusal) : Option (List Nat × Word × Word) :=
  (nextOf o).map fun t => (rs.map t.regVal, t.statusWord, t.errcmd)

/-- What a transaction shows: the answer it got and STATUS. -/
def answered (o : Host.Outcome State Fault Refusal) : Option (List Response × Word) :=
  (nextOf o).map fun t => (t.responses, t.statusWord)

theorem start_shaped (n modulus coeff : Nat) (ws : List (RegIdx × Nat)) : Shaped (start n modulus coeff ws) := by
  have h : Shaped (State.resetOf n) := ⟨fun i => by simp [State.reg, State.resetOf, zeroBig], by
    simp [State.resetOf, zeroBig], by simp [State.resetOf, zeroBig]⟩
  have hw := h.writeRegs ws
  have hl : ((State.resetOf n).writeRegs ws).limbs = n := (writeRegs_frame ws (State.resetOf n)).2.1.limbs
  exact ⟨hw.regs, by simp [start, hl], by simp [start, hl]⟩

/-! ## WellFormed: each check refuses an ill-formed term -/

theorem test_wf_refuses_mulw_same_destinations : (Instr.mulw 4 4 1 2).wf = false := by decide
theorem test_wf_refuses_divrem_same_destinations : (Instr.divrem 0 0 1 2).wf = false := by decide
theorem test_wf_refuses_padd_odd_fields :
    (Instr.padd 5 0 2).wf = false ∧ (Instr.padd 4 1 2).wf = false ∧ (Instr.padd 4 0 3).wf = false := by decide
theorem test_wf_refuses_pdbl_odd_fields : (Instr.pdbl 3 0).wf = false ∧ (Instr.pdbl 2 1).wf = false := by decide
theorem test_wf_refuses_pmul_odd_fields : (Instr.pmul 5 0 8).wf = false ∧ (Instr.pmul 4 1 8).wf = false := by decide
theorem test_wf_accepts_odd_scalar_register : (Instr.pmul 4 0 9).wf = true := by decide

/-! ## Decoding: a word of every row, written out from 30_encoding R81 and R85
(`{res, rx, rs2, rs1, rd, op}`), with operands that tell the fields apart -/

theorem test_decode_add : decode (0x00#8 ++ 0#4 ++ 2#4 ++ 1#4 ++ 3#4 ++ 0x01#8) = .ok (.add 3 1 2) := by decide
theorem test_decode_sub : decode (0x00#8 ++ 0#4 ++ 2#4 ++ 1#4 ++ 3#4 ++ 0x02#8) = .ok (.sub 3 1 2) := by decide
theorem test_decode_mul : decode (0x00#8 ++ 0#4 ++ 2#4 ++ 1#4 ++ 3#4 ++ 0x03#8) = .ok (.mul 3 1 2) := by decide
theorem test_decode_mulw : decode (0x00#8 ++ 5#4 ++ 2#4 ++ 1#4 ++ 4#4 ++ 0x04#8) = .ok (.mulw 4 5 1 2) := by decide
theorem test_decode_divrem : decode (0x00#8 ++ 7#4 ++ 1#4 ++ 0#4 ++ 6#4 ++ 0x05#8) = .ok (.divrem 6 7 0 1) := by decide
theorem test_decode_radd : decode (0x00#8 ++ 0#4 ++ 2#4 ++ 1#4 ++ 3#4 ++ 0x10#8) = .ok (.radd 3 1 2) := by decide
theorem test_decode_rsub : decode (0x00#8 ++ 0#4 ++ 2#4 ++ 1#4 ++ 3#4 ++ 0x11#8) = .ok (.rsub 3 1 2) := by decide
theorem test_decode_rmul : decode (0x00#8 ++ 0#4 ++ 2#4 ++ 1#4 ++ 15#4 ++ 0x12#8) = .ok (.rmul 15 1 2) := by decide
theorem test_decode_rinv : decode (0x00#8 ++ 0#4 ++ 0#4 ++ 1#4 ++ 2#4 ++ 0x13#8) = .ok (.rinv 2 1) := by decide
theorem test_decode_padd : decode (0x00#8 ++ 0#4 ++ 2#4 ++ 0#4 ++ 4#4 ++ 0x20#8) = .ok (.padd 4 0 2) := by decide
theorem test_decode_pdbl : decode (0x00#8 ++ 0#4 ++ 0#4 ++ 0#4 ++ 2#4 ++ 0x21#8) = .ok (.pdbl 2 0) := by decide
theorem test_decode_pmul : decode (0x00#8 ++ 0#4 ++ 9#4 ++ 0#4 ++ 4#4 ++ 0x22#8) = .ok (.pmul 4 0 9) := by decide

/-- The words of the vectors (95_test_vectors sections 2 to 4) from their assembly text: the encoder agrees. -/
theorem test_encode_words :
    encode (.sub 3 1 2) = 0x00021302#32 ∧ encode (.divrem 0 1 0 1) = 0x00110005#32 ∧
    encode (.mulw 1 2 1 2) = 0x00221104#32 ∧ encode (.rsub 3 1 2) = 0x00021311#32 ∧
    encode (.rinv 2 1) = 0x00001213#32 ∧ encode (.padd 0 0 0) = 0x00000020#32 ∧
    encode (.pdbl 2 0) = 0x00000221#32 ∧ encode (.pmul 8 0 8) = 0x00080822#32 := by decide

/-- 95_test_vectors 5.1. -/
theorem test_decode_refuses_reserved :
    decode 0x00000000#32 = .error .reservedOpcode ∧ decode 0x00000006#32 = .error .reservedOpcode ∧
    decode 0x000000FF#32 = .error .reservedOpcode ∧ decode 0x01021301#32 = .error .reservedBits ∧
    decode 0x80000001#32 = .error .reservedBits ∧ decode 0x00411404#32 = .error .sameDestinations ∧
    decode 0x00410405#32 = .error .sameDestinations ∧ decode 0x00011213#32 = .error .mustBeZero ∧
    decode 0x00101213#32 = .error .mustBeZero ∧ decode 0x00121301#32 = .error .mustBeZero := by decide

/-- 95_test_vectors 4.4. -/
theorem test_decode_refuses_curve_words :
    decode 0x00020520#32 = .error .oddPointField ∧ decode 0x00030420#32 = .error .oddPointField ∧
    decode 0x00001221#32 = .error .oddPointField ∧ decode 0x00000321#32 = .error .oddPointField ∧
    decode 0x00010221#32 = .error .mustBeZero ∧ decode 0x00081422#32 = .error .oddPointField ∧
    decode 0x00180422#32 = .error .mustBeZero := by decide

/-- 30_encoding R94, the pseudo-instructions, and R93, the syntax. -/
theorem test_assembly_names :
    Instr.sqr 3 1 = .mul 3 1 1 ∧ Instr.sqrw 4 5 1 = .mulw 4 5 1 1 ∧ Instr.rsqr 3 1 = .rmul 3 1 1 ∧
    (Instr.divrem 6 7 0 1).assembly = "DIVREM R6, R7, R0, R1" := by decide +kernel

/-! ## Integer commands (95_test_vectors section 2) -/

/-- I3: carry into limb 1. -/
theorem test_add_carries_into_next_limb :
    shown [3] (run1 0x00021301#32 (start 2 0 0 [(1, 0xFFFFFFFF), (2, 1)])) = some ([0x100000000], 2#32, 0#32) := by
  decide +kernel
/-- I2: OVERFLOW. -/
theorem test_add_overflows :
    shown [3] (run1 0x00021301#32 (start 1 0 0 [(1, 0xFFFFFFFF), (2, 1), (3, 0xAAAA)])) =
      some ([0xAAAA], 0x00000206#32, 0x00021301#32) := by decide +kernel
/-- I9: borrow out of limb 0. -/
theorem test_sub_borrows_from_next_limb :
    shown [3] (run1 0x00021302#32 (start 2 0 0 [(1, 0x100000000), (2, 1)])) = some ([0xFFFFFFFF], 2#32, 0#32) := by
  decide +kernel
/-- I8: UNDERFLOW. -/
theorem test_sub_underflows :
    shown [3] (run1 0x00021302#32 (start 1 0 0 [(1, 3), (2, 5)])) = some ([0], 0x00000306#32, 0x00021302#32) := by
  decide +kernel
/-- I14. -/
theorem test_mul_of_two_limbs :
    shown [3] (run1 0x00021303#32 (start 2 0 0 [(1, 0xFFFFFFFF), (2, 0xFFFFFFFF)])) =
      some ([0xFFFFFFFE00000001], 2#32, 0#32) := by decide +kernel
/-- I13: OVERFLOW. -/
theorem test_mul_overflows :
    shown [3] (run1 0x00021303#32 (start 1 0 0 [(1, 0x10000), (2, 0x10000)])) =
      some ([0], 0x00000206#32, 0x00021303#32) := by decide +kernel
/-- I19: both sources overwritten, read first. -/
theorem test_mulw_overwrites_sources :
    shown [1, 2] (run1 0x00221104#32 (start 2 0 0 [(1, 0x123456789ABCDEF0), (2, 0x0FEDCBA987654321)])) =
      some ([0x2236D88FE5618CF0, 0x0121FA00AD77D742], 2#32, 0#32) := by decide +kernel
/-- I20: ILLEGAL. -/
theorem test_mulw_same_destinations_illegal :
    shown [4] (run1 0x00421404#32 (start 1 0 0 [(1, 3), (2, 5)])) = some ([0], 0x00000106#32, 0x00421404#32) := by
  decide +kernel
/-- I28: the corner case of the schoolbook algorithm. -/
theorem test_divrem_add_back_case :
    shown [6, 7] (run1 0x00710605#32
      (start 4 0 0 [(0, 0x7FFFFFFE80000001FFFFFFFE80000001), (1, 0x8000000000000002FFFFFFFE)])) =
      some ([0xFFFFFFFC, 0x7FFFFFFF0000000C7FFFFFF9], 2#32, 0#32) := by decide +kernel
/-- I30: ILLEGAL before DIVZERO. -/
theorem test_divrem_illegal_before_divzero :
    shown [6] (run1 0x00610605#32 (start 1 0 0 [])) = some ([0], 0x00000106#32, 0x00610605#32) := by decide +kernel

/-! ## Ring commands (95_test_vectors section 3) -/

/-- G4: the sum exceeds 2^32. -/
theorem test_radd_is_exact :
    shown [3] (run1 0x00021310#32 (start 1 0xFFFFFFFB 0 [(1, 0xFFFFFFFA), (2, 0xFFFFFFFA)])) =
      some ([0xFFFFFFF9], 2#32, 0#32) := by decide +kernel
/-- G6: DIVZERO. -/
theorem test_radd_divzero :
    shown [3] (run1 0x00021310#32 (start 1 0 0 [(1, 5), (2, 6)])) = some ([0], 0x00000406#32, 0x00021310#32) := by
  decide +kernel
/-- G9: unreduced, b - a > m. -/
theorem test_rsub_unreduced :
    shown [3] (run1 0x00021311#32 (start 1 17 0 [(1, 0), (2, 100)])) = some ([2], 2#32, 0#32) := by decide +kernel
/-- G7. -/
theorem test_rsub_below_zero :
    shown [3] (run1 0x00021311#32 (start 1 17 0 [(1, 3), (2, 5)])) = some ([15], 2#32, 0#32) := by decide +kernel
/-- G15: unreduced operands of two limbs. -/
theorem test_rmul_unreduced :
    shown [3] (run1 0x00021312#32
      (start 2 0x1FFFFFFFFFFFFFFF 0 [(1, 0xFFFFFFFFFFFFFFFF), (2, 0xFFFFFFFFFFFFFFFF)])) =
      some ([0x31], 2#32, 0#32) := by decide +kernel
/-- G31. -/
theorem test_rinv_of_two_limbs :
    shown [2] (run1 0x00001213#32 (start 2 0x1FFFFFFFFFFFFFFF 0 [(1, 0x3039)])) =
      some ([0x1FC39D0AD8744B3B], 2#32, 0#32) := by decide +kernel
/-- G29: NOINV. -/
theorem test_rinv_noinv :
    shown [2] (run1 0x00001213#32 (start 1 0xFFFFFFFF 0 [(1, 3)])) = some ([0], 0x00000506#32, 0x00001213#32) := by
  decide +kernel

/-! ## Curve commands (95_test_vectors section 4; y² = x³ + 2x + 2 mod 17) -/

/-- P1. -/
theorem test_padd_chord :
    shown [4, 5] (run1 0x00020420#32 (start 1 17 2 [(0, 5), (1, 1), (2, 6), (3, 3)])) =
      some ([10, 6], 2#32, 0#32) := by decide +kernel
/-- P5: congruent but raw-different points take the chord branch: NOPOINT. -/
theorem test_padd_congruent_points :
    shown [4, 5] (run1 0x00020420#32 (start 1 17 2 [(0, 5), (1, 1), (2, 22), (3, 1)])) =
      some ([0, 0], 0x00000606#32, 0x00020420#32) := by decide +kernel
/-- P10: the destination pair is the source pair. -/
theorem test_pdbl_in_place :
    shown [0, 1] (run1 0x00000021#32 (start 1 17 2 [(0, 5), (1, 1)])) = some ([6, 3], 2#32, 0#32) := by
  decide +kernel
/-- P11: a point of order 2: NOPOINT. -/
theorem test_pdbl_vertical_tangent :
    shown [2, 3] (run1 0x00000221#32 (start 1 17 1 [])) = some ([0, 0], 0x00000606#32, 0x00000221#32) := by
  decide +kernel
/-- P25: the add step takes the doubling branch; P26: the prefix 19 of 38 is the identity. -/
theorem test_pmul_past_the_order :
    shown [4, 5] (run1 0x00080422#32 (start 1 17 2 [(0, 5), (1, 1), (8, 21)])) = some ([6, 3], 2#32, 0#32) ∧
    shown [4, 5] (run1 0x00080422#32 (start 1 17 2 [(0, 5), (1, 1), (8, 38)])) =
      some ([0, 0], 0x00000606#32, 0x00080422#32) := by decide +kernel
/-- S8, program L3-4: 2·G on P-256 has the x the source gives. -/
theorem test_pmul_p256_twice_generator :
    (shown [4] (run1 0x00020422#32 (start 8 0xFFFFFFFF00000001000000000000000000000000FFFFFFFFFFFFFFFFFFFFFFFF
      0xFFFFFFFF00000001000000000000000000000000FFFFFFFFFFFFFFFFFFFFFFFC
      [(0, 0x6B17D1F2E12C4247F8BCE6E563A440F277037D812DEB33A0F4A13945D898C296),
       (1, 0x4FE342E2FE1A7F9B8EE7EB4A7C0F9E162BCE33576B315ECECBB6406837BF51F5), (2, 2)]))) =
      some ([0x7CF27B188D034F7E8A52380304B51AC3C08969E277F21B35A60B48FC47669978], 2#32, 0#32) := by decide +kernel

/-! ## Bus and registers (95_test_vectors 5.2, N = 2) -/

/-- B1, B2, B9: ID, PARAM, CMD read. -/
theorem test_bus_reads_constants :
    answered (step (waiting [readWord 0x0000] (start 2 0 0 []))) = some ([.data 0x534C0001#32], 0#32) ∧
    answered (step (waiting [readWord 0x0004] (start 2 0 0 []))) = some ([.data 0x00100002#32], 0#32) ∧
    answered (step (waiting [readWord 0x0010] (start 2 0 0 []))) = some ([.data 0#32], 0#32) := by decide +kernel
/-- B3 to B7: BUSERR. -/
theorem test_bus_errors :
    ([.read 0x0002#16 .four, .read 0x0000#16 .two, .write 0x1000#16 .one 0xFF#32, readWord 0x1008, readWord 0x0018,
      readWord 0x3400] : List Input).all
      (fun x => stopOf (step (waiting [x] (start 2 0 0 []))) == some (.inl .busError)) = true := by decide +kernel
/-- B10: IE kept, the reserved bits read 0. -/
theorem test_bus_ctrl_write :
    (nextOf (step (waiting [writeWord 0x0008 0xFFFFFFFE#32] (start 2 0 0 [])))).map (·.ctrlWord) = some 2#32 := by
  decide +kernel
/-- B11: BUSY cannot be written. -/
theorem test_bus_status_write_ignored :
    answered (step (waiting [writeWord 0x000C 0xFFFFFFFF#32] (start 2 0 0 []))) = some ([.ok], 0#32) := by
  decide +kernel
/-- B13: the other limb is kept. -/
theorem test_bus_window_write :
    shown [1] (step (waiting [writeWord 0x1200 1#32] (start 2 0 0 [(1, 0x0000000500000007)]))) =
      some ([0x0000000500000001], 0#32, 0#32) := by decide +kernel
/-- B12: the big-endian byte array of R0 (20_memory R53), and byte lane 3 of its upper word (R54). -/
theorem test_big_endian_bytes :
    bigEndianBytes 2 0x0123456789ABCDEF =
      [0x01#8, 0x23#8, 0x45#8, 0x67#8, 0x89#8, 0xAB#8, 0xCD#8, 0xEF#8] ∧
    byteLane 0x01234567#32 3 = 0x01#8 := by decide +kernel
/-- B14: STATUS reads 1 if the read comes first. -/
theorem test_bus_status_read_before_engine :
    answered (step (pending 0x00011301#32 [readWord 0x000C] 1 (start 2 0 0 [(1, 5)]))) =
      some ([.data 1#32], 1#32) := by decide +kernel
/-- B14: the engine may come first; the read is then still to come. -/
theorem test_bus_engine_before_status_read :
    answered (step (pending 0x00011301#32 [readWord 0x000C] 0 (start 2 0 0 [(1, 5)]))) =
      some ([], 2#32) := by decide +kernel
/-- B15: a held read makes the engine move. -/
theorem test_bus_held_read_waits :
    shown [3] (step (pending 0x00011301#32 [readWord 0x1600] 1 (start 2 0 0 [(1, 5)]))) =
      some ([10], 2#32, 0#32) := by decide +kernel
/-- B16: a soft reset discards the pending command. -/
theorem test_soft_reset_discards :
    shown [1, 3] (step (pending 0x00011301#32 [writeWord 0x0008 1#32] 1 (start 2 0 0 [(1, 5)]))) =
      some ([0, 0], 0#32, 0#32) := by decide +kernel
/-- B17: a skipped command; B18: the error return. -/
theorem test_skip_and_error_return :
    (nextOf (step (waiting [writeWord 0x0010 0x00011301#32] (failed (start 2 0 0 []))))).map
      (fun t => (t.statusWord, t.errcmd)) = some (0x00000206#32, 0x00021301#32) ∧
    (nextOf (step (waiting [writeWord 0x000C 4#32] (failed (start 2 0 0 []))))).map
      (fun t => (t.statusWord, t.errcmd)) = some (0x00000002#32, 0#32) := by decide +kernel
/-- B19: irq high, and low after DONE is cleared. -/
theorem test_irq_follows_done :
    ({ start 2 0 0 [] with ie := true, done := true } : State).irq = true ∧
    (nextOf (step (waiting [writeWord 0x000C 2#32] { start 2 0 0 [] with ie := true, done := true }))).map (·.irq) =
      some false := by decide +kernel
/-- 70_reset_and_hazards R190: a transaction while `rst_n` = 0 is refused. -/
theorem test_transaction_during_reset :
    stopOf (step (waiting [readWord 0x0000] { start 2 0 0 [] with rstN := false })) =
      some (.inr .transactionDuringReset) := by decide +kernel
/-- 30_encoding R94: the transactions of `WR R1, v` for N = 2 (program L3-1) and of `CLRERR`. -/
theorem test_host_operations :
    hostWR 2 1 0x00000001FFFFFFFF = [writeWord 0x1200 0xFFFFFFFF#32, writeWord 0x1204 1#32] ∧
    hostWRMOD 1 0xFFFFFFFB = [writeWord 0x3000 0xFFFFFFFB#32] ∧ hostWRCA 1 2 = [writeWord 0x3200 2#32] ∧
    hostRD 2 8 = [readWord 0x2000, readWord 0x2004] ∧ hostCLRERR = [writeWord 0x000C 6#32] ∧
    hostCommand (.add 3 1 2) = [writeWord 0x0010 0x00021301#32] := by decide +kernel
/-- Program L3-1, `RD R8`: its answers and its value. -/
theorem test_host_read_value : hostRDValue [.data 0xFFFFFFFE#32, .data 0x00000003#32] = 0x3FFFFFFFE := by decide +kernel
/-- 30_encoding R94, `WAIT`: a STATUS word with bit 0 set does not end it, one with bit 0 clear does. -/
theorem test_host_wait_condition :
    waitOver [.data 0x00000000#32, .data 0x00000001#32] = false ∧
    waitOver [.data 0x00000001#32, .data 0x00000306#32] = true := by decide +kernel
/-- 30_encoding R94, `WAIT`, with the STATUS values of B14: two polls before the engine step, one after it. -/
theorem test_host_wait_ends :
    answered (hostWAIT (pending 0x00011301#32 [] 2 (start 2 0 0 [(1, 5)]))) =
      some ([.data 1#32, .data 1#32, .data 2#32], 2#32) := by decide +kernel

/-! ## Witnesses: for each clause of each statement with hypotheses, a case that meets them, at a boundary where the
clause has one -/

/-- N = 1, MOD = 17, CA = 2: the curve of 95_test_vectors section 4. -/
def curve (ws : List (RegIdx × Nat)) : State := start 1 17 2 ws

theorem witness_DecodeOfEncodeIsTheCommand :
    (Instr.mulw 0 15 15 15).wf = true ∧ (Instr.padd 14 14 0).wf = true ∧ (Instr.pmul 0 0 15).wf = true := by decide
theorem witness_EncodeOfDecodeIsTheWord :
    decode 0x00E0FF04#32 = .ok (.mulw 15 14 15 0) ∧ decode 0x0000FF13#32 = .ok (.rinv 15 15) := by decide
theorem witness_DecodeFollowsOpcodeTable :
    decode 0x00521404#32 = .ok (.mulw 4 5 1 2) ∧ decode 0x00411404#32 = .error .sameDestinations ∧
    (∃ r ∈ opcodeTable, r.fits 0x00411404#32 = true) ∧ decode 0#32 = .error .reservedOpcode := by decide
theorem witness_LimbsAreBigEndianBytes :
    0 < (bigOfNat 2 0x0123456789ABCDEF).length ∧ 1 < (bigOfNat 2 0x0123456789ABCDEF).length := by decide

theorem witness_AddWritesSumOrOverflows :
    (let s := start 1 0 0 [(1, 0xFFFFFFFE), (2, 1)]
     s.regVal 1 + s.regVal 2 < 2 ^ (32 * s.limbs)) ∧
    (let s := start 1 0 0 [(1, 0xFFFFFFFF), (2, 1)]
     2 ^ (32 * s.limbs) ≤ s.regVal 1 + s.regVal 2) := by decide +kernel
theorem witness_SubWritesDifferenceOrUnderflows :
    (let s := start 1 0 0 [(1, 5), (2, 5)]
     Shaped s ∧ s.regVal 2 ≤ s.regVal 1) ∧
    (let s := start 1 0 0 [(1, 4), (2, 5)]
     Shaped s ∧ s.regVal 1 < s.regVal 2) :=
  ⟨⟨start_shaped .., by decide +kernel⟩, ⟨start_shaped .., by decide +kernel⟩⟩
theorem witness_MulWritesProductOrOverflows :
    (let s := start 1 0 0 [(1, 0xFFFF), (2, 0x10001)]
     s.regVal 1 * s.regVal 2 < 2 ^ (32 * s.limbs)) ∧
    (let s := start 1 0 0 [(1, 0x10000), (2, 0x10000)]
     2 ^ (32 * s.limbs) ≤ s.regVal 1 * s.regVal 2) := by decide +kernel
theorem witness_MulwWritesBothHalves :
    Shaped (start 1 0 0 [(1, 0xFFFFFFFF), (2, 0xFFFFFFFF)]) ∧ (4 : RegIdx) ≠ 5 ∧ (4 : RegIdx) = 4 :=
  ⟨start_shaped .., by decide, rfl⟩
theorem witness_DivremWritesQuotientAndRemainder :
    Shaped (start 1 0 0 [(0, 7), (1, 1)]) ∧ (6 : RegIdx) ≠ 7 ∧ (start 1 0 0 [(0, 7), (1, 1)]).regVal 1 ≠ 0 ∧
    Shaped (start 1 0 0 [(0, 7)]) ∧ (start 1 0 0 [(0, 7)]).regVal 1 = 0 ∧ (6 : RegIdx) = 6 :=
  ⟨start_shaped .., by decide, by decide +kernel, start_shaped .., by decide +kernel, rfl⟩
/-- Products with a zero and with a nonzero high half; a sum at the bound. -/
theorem witness_IntegerLaws :
    (let s := start 1 0 0 [(1, 0xFFFFFFFE), (2, 1)]
     Shaped s ∧ (3 : RegIdx) ≠ 4 ∧ s.regVal 2 ≠ 0 ∧ (1 : RegIdx) ≠ 2 ∧
      s.regVal 1 + s.regVal 2 < 2 ^ (32 * s.limbs) ∧
      (nextOf (exec (.mulw 3 4 1 2) s)).map (·.regVal 4) = some 0) ∧
    (let s := start 1 0 0 [(1, 0x10000), (2, 0x10000)]
     Shaped s ∧ (nextOf (exec (.mulw 3 4 1 2) s)).map (·.regVal 4) = some 1) :=
  ⟨⟨start_shaped .., by decide +kernel⟩, ⟨start_shaped .., by decide +kernel⟩⟩

theorem witness_RaddWritesResidue :
    Shaped (start 1 1 0 []) ∧ (start 1 1 0 []).modVal ≠ 0 ∧ Shaped (start 1 0 0 []) ∧ (start 1 0 0 []).modVal = 0 :=
  ⟨start_shaped .., by decide +kernel, start_shaped .., by decide +kernel⟩
/-- Reduced operands with a < b and with a = b; a zero modulus. -/
theorem witness_RsubWritesResidue :
    (let s := start 1 17 0 [(1, 15), (2, 16), (3, 16)]
     Shaped s ∧ s.modVal ≠ 0 ∧ s.regVal 1 < s.modVal ∧ s.regVal 2 < s.modVal ∧ s.regVal 1 < s.regVal 2 ∧
      s.regVal 3 < s.modVal ∧ ¬ s.regVal 3 < s.regVal 2) ∧
    Shaped (start 1 0 0 []) ∧ (start 1 0 0 []).modVal = 0 :=
  ⟨⟨start_shaped .., by decide +kernel⟩, start_shaped .., by decide +kernel⟩
theorem witness_RmulWritesResidue :
    Shaped (start 1 1 0 []) ∧ (start 1 1 0 []).modVal ≠ 0 ∧ Shaped (start 1 0 0 []) ∧ (start 1 0 0 []).modVal = 0 :=
  ⟨start_shaped .., by decide +kernel, start_shaped .., by decide +kernel⟩
theorem witness_RinvFindsTheInverse :
    1 ≤ 1 ∧ Nat.gcd 0 1 = 1 ∧ 1 ≤ 17 ∧ Nat.gcd 16 17 = 1 ∧ 1 ≤ 2 ∧ Nat.gcd 0 2 ≠ 1 := by decide
theorem witness_RinvWritesInverseOrNoinv :
    (let s := start 1 1 0 []
     Shaped s ∧ s.modVal ≠ 0 ∧ Nat.gcd (s.regVal 1) s.modVal = 1) ∧
    (let s := start 1 2 0 []
     Shaped s ∧ s.modVal ≠ 0 ∧ Nat.gcd (s.regVal 1) s.modVal ≠ 1) ∧
    (let s := start 1 0 0 [(1, 5)]
     Shaped s ∧ s.modVal = 0) :=
  ⟨⟨start_shaped .., by decide +kernel⟩, ⟨start_shaped .., by decide +kernel⟩, ⟨start_shaped .., by decide +kernel⟩⟩
theorem witness_RsubThenRaddGivesResidue :
    Shaped (start 1 1 0 []) ∧ (start 1 1 0 []).modVal ≠ 0 ∧ (3 : RegIdx) ≠ 2 :=
  ⟨start_shaped .., by decide +kernel⟩
theorem witness_RmulByInverseGivesOne :
    (let s := start 1 2 0 [(1, 3)]
     Shaped s ∧ 2 ≤ s.modVal ∧ Nat.gcd (s.regVal 1) s.modVal = 1 ∧ (2 : RegIdx) ≠ 1) :=
  ⟨start_shaped .., by decide +kernel⟩

/-- A chord (P1), a tangent (P3), no inverse (P4); 95_test_vectors 4.1. -/
theorem witness_PaddFollowsChordAndTangent :
    1 ≤ 17 ∧ padd 17 2 ⟨5, 1⟩ ⟨6, 3⟩ = some ⟨10, 6⟩ ∧ padd 17 2 ⟨5, 1⟩ ⟨5, 1⟩ = some ⟨6, 3⟩ ∧
    padd 17 2 ⟨5, 1⟩ ⟨5, 16⟩ = none ∧ 1 ≤ 1 ∧ padd 1 2 ⟨5, 1⟩ ⟨6, 3⟩ = some ⟨0, 0⟩ := by decide +kernel
theorem witness_PaddWritesPointOrNopoint :
    (let s := curve [(0, 5), (1, 1), (2, 6), (3, 3)]
     Shaped s ∧ s.modVal ≠ 0 ∧
      padd s.modVal s.caVal ⟨s.regVal 0, s.regVal (0 + 1)⟩ ⟨s.regVal 2, s.regVal (2 + 1)⟩ = some ⟨10, 6⟩) ∧
    (let s := curve [(0, 5), (1, 1), (2, 5), (3, 16)]
     Shaped s ∧ s.modVal ≠ 0 ∧
      padd s.modVal s.caVal ⟨s.regVal 0, s.regVal (0 + 1)⟩ ⟨s.regVal 2, s.regVal (2 + 1)⟩ = none) ∧
    (Shaped (start 1 0 2 []) ∧ (start 1 0 2 []).modVal = 0) ∧
    ((4 : RegIdx).val % 2 = 0 ∧ (0 : RegIdx).val % 2 = 0 ∧ (2 : RegIdx).val % 2 = 0 ∧ (15 : RegIdx).val % 2 = 1) ∧
    (1 : RegIdx) ≠ 0 ∧ 3 ≤ 3 ∧ ∀ d, d ∣ 3 → d = 1 ∨ d = 3 :=
  ⟨⟨start_shaped .., by decide +kernel⟩, ⟨start_shaped .., by decide +kernel⟩,
    ⟨start_shaped .., by decide +kernel⟩, by decide, by decide, by decide, fun d h => by
      have := Nat.le_of_dvd (by decide) h
      interval_cases d <;> omega⟩
theorem witness_PdblWritesDoubleOrNopoint :
    (let s := curve [(0, 5), (1, 1)]
     Shaped s ∧ s.modVal ≠ 0 ∧
      padd s.modVal s.caVal ⟨s.regVal 0, s.regVal (0 + 1)⟩ ⟨s.regVal 0, s.regVal (0 + 1)⟩ = some ⟨6, 3⟩) ∧
    (let s := start 1 17 1 []
     Shaped s ∧ s.modVal ≠ 0 ∧ Nat.gcd (2 * s.regVal (0 + 1)) s.modVal ≠ 1) ∧
    (Shaped (start 1 0 2 []) ∧ (start 1 0 2 []).modVal = 0) ∧
    ((2 : RegIdx).val % 2 = 0 ∧ (0 : RegIdx).val % 2 = 0 ∧ (1 : RegIdx).val % 2 = 1) :=
  ⟨⟨start_shaped .., by decide +kernel⟩, ⟨start_shaped .., by decide +kernel⟩,
    ⟨start_shaped .., by decide +kernel⟩, by decide⟩
/-- The clause about 2k and 2k + 1 at k = 1. -/
theorem witness_SmulIsDoubleAndAdd : 1 ≤ 1 ∧ smul 17 2 ⟨5, 1⟩ 3 = some ⟨10, 6⟩ ∧ smul 17 2 ⟨5, 1⟩ 19 = none := by
  decide +kernel
/-- Scalars 20, 1, 0 and 19 (the order), and a zero modulus. -/
theorem witness_PmulWritesMultipleOrNopoint :
    (let s := curve [(0, 5), (1, 1), (8, 20)]
     Shaped s ∧ s.modVal ≠ 0 ∧
      smul s.modVal s.caVal ⟨s.regVal 0, s.regVal (0 + 1)⟩ (s.regVal 8) = some ⟨5, 1⟩) ∧
    (let s := curve [(0, 22), (1, 1), (9, 1)]
     Shaped s ∧ s.modVal ≠ 0 ∧ s.regVal 9 = 1 ∧ s.regVal 8 = 0) ∧
    (let s := curve [(0, 5), (1, 1), (8, 19)]
     Shaped s ∧ s.modVal ≠ 0 ∧
      smul s.modVal s.caVal ⟨s.regVal 0, s.regVal (0 + 1)⟩ (s.regVal 8) = none) ∧
    (Shaped (start 1 0 2 []) ∧ (start 1 0 2 []).modVal = 0) ∧
    ((4 : RegIdx).val % 2 = 0 ∧ (0 : RegIdx).val % 2 = 0 ∧ (5 : RegIdx).val % 2 = 1) :=
  ⟨⟨start_shaped .., by decide +kernel⟩, ⟨start_shaped .., by decide +kernel⟩,
    ⟨start_shaped .., by decide +kernel⟩, ⟨start_shaped .., by decide +kernel⟩, by decide⟩
/-- A chord and a tangent; the curve y² = x³ + 2x + 2 has b = 2. -/
theorem witness_PaddStaysOnCurve :
    1 ≤ 17 ∧ OnCurve 17 2 2 ⟨5, 1⟩ ∧ OnCurve 17 2 2 ⟨6, 3⟩ ∧ padd 17 2 ⟨5, 1⟩ ⟨6, 3⟩ = some ⟨10, 6⟩ ∧
    padd 17 2 ⟨5, 1⟩ ⟨5, 1⟩ = some ⟨6, 3⟩ := by unfold OnCurve; decide +kernel
theorem witness_PaddIsSymmetric : 1 ≤ 17 ∧ padd 17 2 ⟨6, 3⟩ ⟨5, 1⟩ = some ⟨10, 6⟩ := by decide +kernel
theorem witness_PmulByTwoAndThreeAgreeWithPadd :
    (4 : RegIdx).val % 2 = 0 ∧ (0 : RegIdx).val % 2 = 0 ∧ (curve [(0, 5), (1, 1), (8, 2)]).regVal 8 = 2 ∧
    (curve [(0, 5), (1, 1), (8, 3)]).regVal 8 = 3 ∧ (curve [(0, 5), (1, 1), (8, 3)]).modVal ≠ 0 := by decide +kernel

/-- Every command has a well-formed term. -/
theorem witness_CommandsArePrecise :
    ([.add 3 1 2, .sub 3 1 2, .mul 3 1 2, .mulw 4 5 1 2, .divrem 6 7 0 1, .radd 3 1 2, .rsub 3 1 2, .rmul 3 1 2,
      .rinv 2 1, .padd 4 0 2, .pdbl 2 0, .pmul 4 0 8] : List Instr).all Instr.wf = true := by decide
theorem witness_ZeroModulusRaisesDivzero :
    (Instr.rinv 2 1).wf = true ∧ (Instr.rinv 2 1).usesMod = true ∧ (Instr.pmul 4 0 8).wf = true ∧
    (Instr.pmul 4 0 8).usesMod = true ∧ (start 1 0 0 [(1, 5)]).modVal = 0 := by decide +kernel
/-- Two states that agree on the operands of PADD R4, R0, R2 and differ in a destination register, R15 and PEND. -/
theorem witness_OutcomeDependsOnOperandsOnly :
    let s := curve [(0, 5), (1, 1), (2, 6), (3, 3)]
    let s' : State := { curve [(0, 5), (1, 1), (2, 6), (3, 3), (4, 99), (15, 7)] with pend := 7#32 }
    s ≠ s' ∧ s.limbs = s'.limbs ∧ (∀ r ∈ (Instr.padd 4 0 2).sources, s.reg r = s'.reg r) ∧ s.mod = s'.mod ∧
      s.ca = s'.ca := by decide +kernel

/-- With no input, and with an input ready and the engine to move. -/
theorem witness_StepExecutesPendingCommand :
    (pending 0x00011301#32 [] 1 (start 1 0 0 [])).engineMoves ∧
    (pending 0x00011301#32 [readWord 0x000C] 0 (start 1 0 0 [])).engineMoves ∧
    decode 0x00011301#32 = .ok (.add 3 1 1) := by
  unfold State.engineMoves
  decide +kernel
theorem witness_StepRaisesIllegal :
    (pending 0#32 [] 0 (start 1 0 0 [])).engineMoves ∧ decode 0#32 = .error .reservedOpcode := by
  unfold State.engineMoves
  decide +kernel
theorem witness_EitherOrderIsAdmitted :
    let s := pending 0x00011301#32 [readWord 0x000C] 0 (start 1 0 0 [])
    s.engineReady = true ∧ s.hostReady = true := by decide +kernel
theorem witness_OnlyEngineSetsErr :
    let s := pending 0#32 [] 0 (start 1 0 0 [])
    ∃ t, step s = .next t ∧ s.err = false ∧ t.err = true := ⟨_, rfl, rfl, rfl⟩
/-- With no input, and with two that may come first, one a CTRL write that is no reset. -/
theorem witness_PendingCommandIsTaken :
    (let s := pending 0x00011301#32 [] 1 (start 1 0 0 [])
     s.busy = true ∧ s.rstN = true ∧ ∀ x ∈ s.inputs, s.goodInput x) ∧
    (let s := pending 0x00011301#32 [readWord 0x000C, writeWord 0x0008 2#32] 2 (start 1 0 0 [])
     s.busy = true ∧ s.rstN = true ∧ ∀ x ∈ s.inputs, s.goodInput x) := by
  refine ⟨⟨rfl, rfl, fun x hx => nomatch hx⟩, rfl, rfl, fun x hx => ?_⟩
  rcases List.mem_cons.1 hx with rfl | hx
  · show (target _ _ _).isSome = true
    decide +kernel
  rcases List.mem_cons.1 hx with rfl | hx
  · show (target _ _ _).isSome = true ∧ (target _ _ _ = some .ctrl → (2#32)[0] = false)
    decide +kernel
  · exact nomatch hx

theorem witness_MappedTransactions :
    128 ≤ 128 ∧ target 128 0x11FC#16 .four = some (.limb (.gpr 0) 127) ∧ target 1 0x1004#16 .four = none := by
  decide +kernel
/-- A wrong size, a misaligned offset and an unmapped limb; idle, and beside a pending command with the host to move. -/
theorem witness_BadTransactionIsBusError :
    target 2 0x0000#16 .two = none ∧ target 2 0x0002#16 .four = none ∧ target 2 0x1008#16 .four = none ∧
    (let s := waiting [.read 0x1008#16 .four] (start 2 0 0 [])
     s.limbs = 2 ∧ s.rstN = true ∧ (s.engineReady = true → s.delay ≠ 0)) ∧
    (let s := pending 0#32 [.write 0x1008#16 .four 0#32] 1 (start 2 0 0 [])
     s.limbs = 2 ∧ s.rstN = true ∧ (s.engineReady = true → s.delay ≠ 0)) := by decide +kernel
theorem witness_BusReadGivesTheMap :
    (start 128 0 0 []).limbs ≤ 128 ∧ 127 < (start 128 0 0 []).limbs ∧ 0 < (start 1 0 0 []).limbs := by decide +kernel
theorem witness_WindowWriteChangesOneLimb :
    (start 128 0 0 []).limbs ≤ 128 ∧ 127 < (start 128 0 0 []).limbs ∧ 0 < (start 1 0 0 []).limbs := by decide +kernel
theorem witness_ControlWrites : (0xFFFFFFFE#32)[0] = false ∧ (0xFFFFFFFE#32)[1] = true ∧ (0#32)[1] = false := by decide
theorem witness_CommandAcceptance :
    (pending 0#32 [] 1 (start 2 0 0 [])).busy = true ∧
    ((start 2 0 0 []).busy = false ∧ (start 2 0 0 []).err = false) ∧
    ((failed (start 2 0 0 [])).busy = false ∧ (failed (start 2 0 0 [])).err = true) := by decide +kernel
theorem witness_HeldTransactionWaits :
    (let s := pending 0x00011301#32 [.read 0x1600#16 .four] 1 (start 2 0 0 [])
     s.busy = true ∧ s.rstN = true ∧ target s.limbs 0x1600#16 .four = some (.limb (.gpr 3) 0) ∧
      (Loc.limb (.gpr 3) 0).isHeld = true ∧ s.inputs = .read 0x1600#16 .four :: []) ∧
    (let s := pending 0x00011301#32 [.write 0x0010#16 .four 0#32] 1 (start 2 0 0 [])
     s.busy = true ∧ s.rstN = true ∧ target s.limbs 0x0010#16 .four = some .cmd ∧ Loc.cmd.isHeld = true ∧
      s.inputs = .write 0x0010#16 .four 0#32 :: []) := by decide +kernel
theorem witness_WindowReadSeesCommandResult :
    let s := waiting [.write 0x0010#16 .four 0x00011301#32, .read 0x1600#16 .four] (start 2 0 0 [(1, 5)])
    s.rstN = true ∧ s.busy = false ∧ s.err = false ∧ target s.limbs 0x1600#16 .four = some (.limb (.gpr 3) 0) ∧
      ∃ t, engineStep { s with
        inputs := .read 0x1600#16 .four :: [], responses := s.responses ++ [.ok], pend := 0x00011301#32, busy := true,
        done := false } = .next t :=
  ⟨rfl, rfl, rfl, by decide +kernel, _, rfl⟩
theorem witness_ErrorReturn :
    let s := waiting [.write 0x000C#16 .four 4#32, .write 0x0010#16 .four 0x00011301#32] (failed (start 2 0 0 []))
    s.rstN = true ∧ s.busy = false ∧ s.err = true ∧ (4#32)[2] = true := by decide +kernel
/-- The largest value of two limbs into R15. -/
theorem witness_HostWriteLoadsRegister :
    let s := waiting (hostWR 2 15 0xFFFFFFFFFFFFFFFF ++ [readWord 0x000C]) (start 2 0 0 [])
    Shaped s ∧ s.limbs ≤ 128 ∧ s.rstN = true ∧ s.busy = false ∧ 0xFFFFFFFFFFFFFFFF < 2 ^ (32 * s.limbs) ∧
      s.inputs = hostWR s.limbs 15 0xFFFFFFFFFFFFFFFF ++ [readWord 0x000C] :=
  have h := start_shaped 2 0 0 []
  ⟨⟨h.regs, h.mod, h.ca⟩, by decide +kernel⟩
/-- MOD changed by a window write, CA by one, MOD by a soft reset and by the reset input. -/
theorem witness_OnlyHostWritesModAndCa :
    ([writeWord 0x3000 5#32, writeWord 0x0008 1#32, .rst false] : List Input).all (fun x =>
      let s := waiting [x] (curve [])
      (nextOf (step s)).any fun t => t.mod != s.mod) = true ∧
    (let s := waiting [writeWord 0x3200 5#32] (curve [])
     (nextOf (step s)).any fun t => t.ca != s.ca) = true := by decide +kernel
theorem witness_InterruptFollowsDone :
    ({ pending 0x00011301#32 [] 0 (start 1 0 0 []) with ie := true } : State).engineMoves := by
  unfold State.engineMoves
  decide +kernel

theorem witness_ResetState : 0 ≤ 128 ∧ 128 ≤ 128 := by decide
/-- With every other bit clear, and set. -/
theorem witness_SoftReset : (1#32)[0] = true ∧ (0xFFFFFFFF#32)[0] = true := by decide
theorem witness_HardwareReset :
    (pending 0x00011301#32 [.rst false] 1 (start 2 17 2 [(1, 5)])).hostMoves ∧
    (let s : State := { waiting [.rst true] (start 2 0 0 []) with rstN := false }
     s.rstN = false ∧ s.inputs = .rst true :: []) ∧
    (let s : State := { waiting [.read 0#16 .four] (start 2 0 0 []) with rstN := false }
     s.rstN = false ∧ s.inputs = .read 0#16 .four :: []) := by
  unfold State.hostMoves
  decide +kernel
theorem witness_IdleKeepsState : (start 2 17 2 [(1, 5)]).busy = false ∧ (start 2 17 2 [(1, 5)]).inputs = [] := by
  decide +kernel
theorem witness_ResetMeetsInvariant : 1 ≤ 1 ∧ 1 ≤ 128 ∧ 128 ≤ 128 := by decide
/-- A state with an accepted command, as acceptance leaves it. -/
theorem witness_StepKeepsInvariant :
    let s := pending 0x00021302#32 [] 0 (start 1 0 0 [(1, 4), (2, 5)])
    StateInv s ∧ ∃ t, step s = .next t := by
  have h := start_shaped 1 0 0 [(1, 4), (2, 5)]
  refine ⟨⟨⟨h.regs, h.mod, h.ca⟩, by decide, by decide, fun _ => rfl, fun _ => rfl, (fun h => nomatch h),
    fun _ => ⟨rfl, rfl⟩, (fun h => nomatch h), (fun h => nomatch h)⟩, _, rfl⟩
/-- The same state with nothing recorded, and a state with an error recorded and an input. -/
theorem witness_StepKeepsErrorExplained :
    (let s := pending 0x00021302#32 [] 0 (start 1 0 0 [(1, 4), (2, 5)])
     ErrorExplained s ∧ ∃ t, step s = .next t) ∧
    (let s := waiting [readWord 0x0014] (failed (start 1 0 0 []))
     ErrorExplained s ∧ s.err = true ∧ ∃ t, step s = .next t) :=
  ⟨⟨(fun h => nomatch h), _, rfl⟩, ⟨fun _ => by
    show ErrCode.overflow ∈ (Instr.add 3 1 2).errCodes
    decide, rfl, _, rfl⟩⟩
theorem witness_LimbsNeverChanges : ∃ t, step (waiting [.rst false] (start 1 17 0 [])) = .next t := ⟨_, rfl⟩
theorem witness_InputsTakenInOrder :
    (∃ t, step (waiting [readWord 0x0000, readWord 0x0004] (start 1 0 0 [])) = .next t) ∧
    ∃ t, step (start 1 0 0 []) = .next t := ⟨⟨_, rfl⟩, _, rfl⟩

/-- An illegal word and a legal one. -/
theorem witness_IllegalWordsExactly :
    decode (assemble ⟨0x04, 4, 1, 2, 4, 0⟩) = .error .sameDestinations ∧
    decode (assemble ⟨0x04, 4, 1, 2, 5, 0⟩) = .ok (.mulw 4 5 1 2) := by decide
/-- A read while idle, and a write beside a pending command with the host to move. -/
theorem witness_HostStepPerformsTransaction :
    (let s := waiting [.read 0x1000#16 .four] (start 2 0 0 [])
     s.hostMoves ∧ s.rstN = true ∧ busRead 0x1000#16 .four s.drawn = .done (.data 0#32) s.drawn) ∧
    (let s := pending 0#32 [.write 0x000C#16 .four 2#32] 1 (start 2 0 0 [])
     s.hostMoves ∧ s.rstN = true ∧ ∃ t, busWrite 0x000C#16 .four 2#32 s.drawn = .done .ok t) := by
  refine ⟨⟨⟨rfl, fun h => nomatch h⟩, rfl, rfl⟩, ⟨rfl, fun _ => nofun⟩, rfl, _, rfl⟩

theorem witness_HostReadGivesRegister :
    let s := waiting (hostRD 2 15 ++ [readWord 0x000C]) (start 2 0 0 [(15, 0xFFFFFFFFFFFFFFFF)])
    Shaped s ∧ s.limbs ≤ 128 ∧ s.rstN = true ∧ s.busy = false ∧
      s.inputs = hostRD s.limbs 15 ++ [readWord 0x000C] :=
  have h := start_shaped 2 0 0 [(15, 0xFFFFFFFFFFFFFFFF)]
  ⟨⟨h.regs, h.mod, h.ca⟩, by decide +kernel⟩
/-- Nothing pending; a command pending, its delay over; a command pending that two polls come before. -/
theorem witness_WaitPollsUntilNotBusy :
    (let s := start 2 0 0 []
     s.rstN = true ∧ s.busy = false) ∧
    (let s := pending 0x00011301#32 [] 0 (start 2 0 0 [(1, 5)])
     s.rstN = true ∧ s.busy = true ∧ s.delay = 0) ∧
    (let s := pending 0x00011301#32 [] 2 (start 2 0 0 [(1, 5)])
     s.rstN = true ∧ s.busy = true ∧ s.delay = 1 + 1) := by decide +kernel

end Sys2Proof.Tests
end

section
namespace Sys2Proof.Machine

open Sys2Proof

/-! ## The value of a big register -/

/-- The value of a big register as a positional sum (00_scope R10). One limb more at the bottom moves every other limb up
one place, a factor of 2^32. -/
theorem bigVal_eq_sum (b : Big) :
    bigVal b = ((List.range b.length).map fun i => (b.getD i 0#32).toNat * 2 ^ (32 * i)).sum := by
  induction b with
  | nil => rfl
  | cons w ws ih =>
    have shift : ∀ i : Nat, 2 ^ 32 * ((ws.getD i 0#32).toNat * 2 ^ (32 * i)) =
        (ws.getD i 0#32).toNat * 2 ^ (32 * (i + 1)) := fun i => by ring
    calc bigVal (w :: ws)
      _ = w.toNat + ((List.range ws.length).map fun i => (ws.getD i 0#32).toNat * 2 ^ (32 * (i + 1))).sum := by
        rw [bigVal, ih, ← List.sum_map_mul_left]
        simp only [shift]
      _ = _ := by
        rw [List.length_cons, List.range_succ_eq_map]
        simp [Function.comp_def]

/-- Settles O5: the sum by induction on the limbs, the bound by `bigVal_lt`. -/
theorem bigValueIsSumOfLimbs : Obligations.BigValueIsSumOfLimbs :=
  fun b => ⟨bigVal_eq_sum b, bigVal_lt b⟩

/-! ## What a command's execution can answer -/

/-- The answer `o` completes the command from `s`: it succeeds and changes no big register outside `dst`, or it fails with
one of `codes` and changes none. -/
def CompletesFrom (s : State) (dst : List RegIdx) (codes : List ErrCode) (o : Host.Outcome State Fault Refusal) : Prop :=
  ∃ t, o = .next t ∧ (Succeeds dst s t ∨ ∃ c ∈ codes, FailsWith c s t)

section
variable {s : State} {codes : List ErrCode}

theorem completesFrom_succeed (ws : List (RegIdx × Nat)) : CompletesFrom s (ws.map Prod.fst) codes (succeed ws s) :=
  have ⟨t, ht, hs⟩ := succeed_frame ws s
  ⟨t, ht, .inl hs⟩

theorem completesFrom_fail {dst : List RegIdx} {c : ErrCode} (hc : c ∈ codes) : CompletesFrom s dst codes (fail c s) :=
  have ⟨t, ht, hf⟩ := fail_spec c s
  ⟨t, ht, .inr ⟨c, hc, hf⟩⟩

theorem completesFrom_finishPoint {rd : RegIdx} {r : Option Point} (hc : .nopoint ∈ codes) :
    CompletesFrom s [rd, pairHigh rd] codes (finishPoint rd r s) :=
  have ⟨t, ht, h⟩ := finishPoint_frame rd r s
  ⟨t, ht, h.imp_right fun ⟨_, hf⟩ => ⟨_, hc, hf⟩⟩

/-- A command that makes a check first completes if it does so on both sides of the check. -/
theorem completesFrom_ite {dst : List RegIdx} {p : Prop} [Decidable p] {o o' : Host.Outcome State Fault Refusal}
    (h : p → CompletesFrom s dst codes o) (h' : ¬p → CompletesFrom s dst codes o') :
    CompletesFrom s dst codes (if p then o else o') := by
  split
  · exact h ‹_›
  · exact h' ‹_›

end

/-- Every command that has an encoding completes, with its destinations written or an error of its row
(60_exceptions R162, R164). -/
theorem exec_completesFrom {i : Instr} (hw : i.wf = true) (s : State) :
    CompletesFrom s i.dests i.errCodes (exec i s) := by
  cases i with
  | add | mul | sub =>
    exact completesFrom_ite (fun _ => completesFrom_fail (.head _)) fun _ => completesFrom_succeed _
  | mulw =>
    exact completesFrom_ite (fun h => absurd h (bne_iff_ne.mp hw)) fun _ => completesFrom_succeed _
  | divrem =>
    exact completesFrom_ite (fun h => absurd h (bne_iff_ne.mp hw)) fun _ =>
      completesFrom_ite (fun _ => completesFrom_fail (.head _)) fun _ => completesFrom_succeed _
  | radd | rsub | rmul =>
    exact completesFrom_ite (fun _ => completesFrom_fail (.head _)) fun _ => completesFrom_succeed _
  | rinv rd rs1 =>
    refine completesFrom_ite (fun _ => completesFrom_fail (.head _)) fun _ => ?_
    split
    · exact completesFrom_fail (.tail _ (.head _))
    · exact completesFrom_succeed _
  | padd | pdbl | pmul =>
    exact completesFrom_ite (fun h => absurd hw (by simpa using h)) fun _ =>
      completesFrom_ite (fun _ => completesFrom_fail (.head _)) fun _ => completesFrom_finishPoint (.tail _ (.head _))

/-! ## What no step changes -/

/-- The engine's step changes nothing that no command changes: LIMBS, MOD, CA, CTRL and the surroundings. -/
theorem engineStep_context {s t : State} (h : engineStep s = .next t) : SameContext s t := by
  obtain ⟨-, -, hill⟩ | ⟨i, -, hw, hex⟩ := engineStep_eq s
  · exact (failsWith_of_fail (hill ▸ h)).context
  · obtain ⟨u, hu, hs | ⟨_, -, hf⟩⟩ := exec_completesFrom hw s <;> cases h.symm.trans (hex.trans hu)
    · exact hs.context
    · exact hf.context

@[simp] theorem State.driveRst_limbs (level : Bool) (s : State) : (s.driveRst level).limbs = s.limbs := by
  unfold State.driveRst
  split <;> rfl

@[simp] theorem State.writeLoc_limbs (l : Loc) (d : Word) (s : State) : (s.writeLoc l d).limbs = s.limbs :=
  (writeLoc_env l d s).1

/-- The outside world's step keeps LIMBS, a hardware reset and a soft reset (a write to CTRL) included. -/
theorem hostStep_limbs {s t : State} (h : hostStep s = .next t) : t.limbs = s.limbs := by
  obtain rfl | ⟨_, _, -, rfl⟩ | ⟨_, _, _, _, -, -, -, rfl⟩ | ⟨_, _, _, _, _, -, -, -, -, rfl⟩ := hostStep_cases h
  · rfl
  · simp
  · simp
  · simp

/-- Settles O55, by the agent that moves. -/
theorem limbsNeverChanges : Obligations.LimbsNeverChanges := by
  intro s t h
  obtain ⟨-, hs⟩ | ⟨-, hs⟩ | ⟨-, -, hs⟩ := step_cases s <;> rw [hs] at h
  · exact (engineStep_context h).limbs.trans s.drawn_limbs
  · exact (hostStep_limbs h).trans s.drawn_limbs
  · cases h
    rfl

end Sys2Proof.Machine
end

section
namespace Sys2Proof.Machine

open Sys2Proof

/-! ## How a command ends -/

/-- The answer `o` ends the command from `s` in one of the two ways of 10_state R37: with results, or with an error that
has a code of its own. -/
def EndsCommand (s : State) (o : Host.Outcome State Fault Refusal) : Prop :=
  (∃ ws, o = succeed ws s) ∨ ∃ c, c ≠ .none ∧ o = fail c s

section
variable {s : State}

theorem endsCommand_succeed (ws : List (RegIdx × Nat)) : EndsCommand s (succeed ws s) := .inl ⟨ws, rfl⟩

theorem endsCommand_fail {c : ErrCode} (hc : c ≠ .none) : EndsCommand s (fail c s) := .inr ⟨c, hc, rfl⟩

theorem endsCommand_finishPoint (rd : RegIdx) (r : Option Point) : EndsCommand s (finishPoint rd r s) := by
  cases r with
  | none => exact endsCommand_fail nofun
  | some p => exact endsCommand_succeed _

/-- A command that makes a check first ends if it does so on both sides of the check. -/
theorem endsCommand_ite {p : Prop} [Decidable p] {o o' : Host.Outcome State Fault Refusal}
    (h : EndsCommand s o) (h' : EndsCommand s o') : EndsCommand s (if p then o else o') := by
  split
  · exact h
  · exact h'

end

/-- Every command ends, a term that has no encoding included. -/
theorem exec_endsCommand (i : Instr) (s : State) : EndsCommand s (exec i s) := by
  cases i with
  | add | sub | mul | mulw | radd | rsub | rmul =>
    exact endsCommand_ite (endsCommand_fail nofun) (endsCommand_succeed _)
  | divrem =>
    exact endsCommand_ite (endsCommand_fail nofun)
      (endsCommand_ite (endsCommand_fail nofun) (endsCommand_succeed _))
  | rinv =>
    refine endsCommand_ite (endsCommand_fail nofun) ?_
    split
    · exact endsCommand_fail nofun
    · exact endsCommand_succeed _
  | padd | pdbl | pmul =>
    exact endsCommand_ite (endsCommand_fail nofun)
      (endsCommand_ite (endsCommand_fail nofun) (endsCommand_finishPoint _ _))

/-- Every pending word ends, a legal one as its command does and an illegal one with ILLEGAL. -/
theorem engineStep_endsCommand (s : State) : EndsCommand s (engineStep s) := by
  obtain ⟨-, -, hill⟩ | ⟨i, -, -, hex⟩ := engineStep_eq s
  · exact hill ▸ endsCommand_fail nofun
  · exact hex ▸ exec_endsCommand i s

/-- The engine's step always answers a next state, the command completed and its context as before. -/
theorem engineStep_completes (s : State) : ∃ t, engineStep s = .next t ∧ Completed t ∧ SameContext s t := by
  obtain ⟨ws, h⟩ | ⟨c, -, h⟩ := engineStep_endsCommand s
  · have ⟨t, ht, hs⟩ := succeed_frame ws s
    exact ⟨t, h.trans ht, hs.completed, hs.context⟩
  · have ⟨t, ht, hf⟩ := fail_spec c s
    exact ⟨t, h.trans ht, hf.completed, hf.context⟩

/-! ## The limb counts -/

/-- The limb counts depend on LIMBS and the registers only. -/
theorem Shaped.congr {s t : State} (h : Shaped s) (hlimbs : t.limbs = s.limbs) (hreg : ∀ j, t.reg j = s.reg j)
    (hmod : t.mod = s.mod) (hca : t.ca = s.ca) : Shaped t where
  regs j := by rw [hreg, hlimbs, h.regs]
  mod := by rw [hmod, hlimbs, h.mod]
  ca := by rw [hca, hlimbs, h.ca]

theorem Shaped.window_length {s : State} (h : Shaped s) (w : Window) : (s.window w).length = s.limbs := by
  cases w with
  | gpr r => exact h.regs r
  | mod => exact h.mod
  | ca => exact h.ca

/-- Putting limbs of the right number into a window keeps the limb counts. -/
theorem Shaped.setWindow {s : State} (h : Shaped s) (w : Window) {b : Big} (hb : b.length = s.limbs) :
    Shaped (s.setWindow w b) := by
  cases w with
  | gpr r => exact h.setReg r hb
  | mod => exact ⟨h.regs, hb, h.ca⟩
  | ca => exact ⟨h.regs, h.mod, hb⟩

/-! ## The invariant, operation by operation -/

namespace StateInv

variable {s t : State}

/-- While `rst_n` = 1 the last clause of the invariant asks nothing. -/
theorem inReset_of_running (hr : s.rstN = true) : s.rstN = false → s.toReset = s :=
  fun h0 => nomatch hr.symm.trans h0

/-- The invariant does not look at the surroundings of SU-CORE. -/
theorem surroundings (h : StateInv s) (xs : List Input) (rs : List Response) (d n : Nat) :
    StateInv { s with inputs := xs, responses := rs, delay := d, draws := n } := { h with
  shaped := h.shaped.congr rfl (fun _ => rfl) rfl rfl
  inReset := fun hr => congrArg (fun u : State => { u with inputs := xs, responses := rs, delay := d, draws := n })
    (h.inReset hr) }

theorem popInput (h : StateInv s) : StateInv s.popInput := h.surroundings _ _ _ _

theorem respond (h : StateInv s) (r : Response) : StateInv (s.respond r) := h.surroundings _ _ _ _

theorem drawn (h : StateInv s) : StateInv s.drawn := by
  obtain ⟨d, n, hd⟩ := drawn_frame s
  exact hd ▸ h.surroundings _ _ d n

/-- The reset state meets the invariant, at either level of the reset input. -/
theorem toReset (hmin : Config.minLimbs ≤ s.limbs) (hmax : s.limbs ≤ Config.maxLimbs) (level : Bool) :
    StateInv { s.toReset with rstN := level } where
  shaped := ⟨fun j => by simp [State.reg], zeroBig_length _, zeroBig_length _⟩
  limbs_min := hmin
  limbs_max := hmax
  busy_noErr := nofun
  busy_notDone := nofun
  idle_pend _ := rfl
  noErr_clear _ := ⟨rfl, rfl⟩
  err_code := nofun
  inReset _ := rfl

theorem driveRst (h : StateInv s) (level : Bool) : StateInv (s.driveRst level) := by
  unfold State.driveRst
  split
  · exact h
  · exact toReset h.limbs_min h.limbs_max level

theorem clearError (h : StateInv s) : StateInv s.clearError := { h with
  shaped := h.shaped.congr rfl (fun _ => rfl) rfl rfl
  busy_noErr := fun _ => rfl
  noErr_clear := fun _ => ⟨rfl, rfl⟩
  err_code := nofun
  inReset := fun hr => congrArg State.clearError (h.inReset hr) }

theorem clearDone (h : StateInv s) : StateInv s.clearDone := { h with
  shaped := h.shaped.congr rfl (fun _ => rfl) rfl rfl
  busy_notDone := fun _ => rfl
  inReset := fun hr => congrArg State.clearDone (h.inReset hr) }

theorem writeStatus (h : StateInv s) (d : Word) : StateInv (s.writeStatus d) := by
  unfold State.writeStatus
  split <;> split
  · exact h.clearError.clearDone
  · exact h.clearError
  · exact h.clearDone
  · exact h

/-- CTRL can be written while `rst_n` = 1; a soft reset leads to the reset state. -/
theorem writeCtrl (h : StateInv s) (hr : s.rstN = true) (d : Word) : StateInv (s.writeCtrl d) := by
  unfold State.writeCtrl
  split
  · exact toReset h.limbs_min h.limbs_max s.rstN
  · exact { h with
      shaped := h.shaped.congr rfl (fun _ => rfl) rfl rfl
      inReset := inReset_of_running hr }

/-- Acceptance latches a word beside no recorded error only, and clears DONE with it (10_state R36). -/
theorem accept (h : StateInv s) (hr : s.rstN = true) (hb : s.busy = false) (c : Word) : StateInv (s.accept c) := by
  unfold State.accept
  split
  next herr =>
    exact { h with
      shaped := h.shaped.congr rfl (fun _ => rfl) rfl rfl
      busy_notDone := fun h1 => nomatch hb.symm.trans h1
      inReset := inReset_of_running hr }
  next herr =>
    exact { h with
      shaped := h.shaped.congr rfl (fun _ => rfl) rfl rfl
      busy_noErr := fun _ => Bool.eq_false_iff.mpr herr
      busy_notDone := fun _ => rfl
      idle_pend := nofun
      inReset := inReset_of_running hr }

theorem setWindow (h : StateInv s) (hr : s.rstN = true) (w : Window) {b : Big} (hb : b.length = s.limbs) :
    StateInv (s.setWindow w b) := by
  have hsh := h.shaped.setWindow w hb
  cases w <;> exact { h with shaped := hsh, inReset := inReset_of_running hr }

/-- A write that is not held, while `rst_n` = 1, keeps the invariant at every location of the map. -/
theorem writeLoc (h : StateInv s) (hr : s.rstN = true) {l : Loc} (hf : (l.isHeld && s.busy) = false) (d : Word) :
    StateInv (s.writeLoc l d) := by
  cases l with
  | id | param | errcmd => exact h
  | ctrl => exact h.writeCtrl hr d
  | status => exact h.writeStatus d
  | cmd => exact h.accept hr hf d
  | limb w i => exact h.setWindow hr w (List.length_set.trans (h.shaped.window_length w))

/-- Completing keeps the invariant: DONE is set, but nothing is pending any more. -/
theorem complete (h : StateInv s) (hr : s.rstN = true) : StateInv s.complete := { h with
  shaped := h.shaped.congr rfl (fun _ => rfl) rfl rfl
  busy_noErr := nofun
  busy_notDone := nofun
  idle_pend := fun _ => rfl
  inReset := inReset_of_running hr }

theorem raiseCmdError (h : StateInv s) (hr : s.rstN = true) {c : ErrCode} (hc : c ≠ .none) :
    StateInv (s.raiseCmdError c) := { h.complete hr with
  shaped := h.shaped.congr rfl (fun _ => rfl) rfl rfl
  busy_noErr := nofun
  noErr_clear := nofun
  err_code := fun _ => hc
  inReset := inReset_of_running hr }

theorem writeReg (h : StateInv s) (hr : s.rstN = true) (i : RegIdx) (v : Nat) : StateInv (s.writeReg i v) := { h with
  shaped := h.shaped.setReg i (bigOfNat_length _ _)
  inReset := inReset_of_running hr }

theorem writeRegs (h : StateInv s) (hr : s.rstN = true) (ws : List (RegIdx × Nat)) : StateInv (s.writeRegs ws) := by
  induction ws generalizing s with
  | nil => exact h
  | cons w ws ih => exact ih (h.writeReg hr w.1 w.2) hr

/-- The engine's step keeps the invariant: it completes with results, or with an error that has a code. -/
theorem engineStep (h : StateInv s) (hr : s.rstN = true) (ht : engineStep s = .next t) : StateInv t := by
  obtain ⟨ws, he⟩ | ⟨c, hc, he⟩ := engineStep_endsCommand s <;> cases ht.symm.trans he
  · obtain ⟨-, hctx, -⟩ := writeRegs_frame ws s
    exact (h.writeRegs hr ws).complete (hctx.rstN.trans hr)
  · exact h.raiseCmdError hr hc

/-- The outside world's step keeps the invariant; a transaction completes only while `rst_n` = 1. -/
theorem hostStep (h : StateInv s) (ht : hostStep s = .next t) : StateInv t := by
  obtain rfl | ⟨level, _, -, rfl⟩ | ⟨_, _, _, _, -, -, -, rfl⟩ | ⟨_, _, d, _, _, -, hr, -, hf, rfl⟩ :=
    hostStep_cases ht
  · exact h
  · exact h.popInput.driveRst level
  · exact h.popInput.respond _
  · exact (h.writeLoc hr hf d).popInput.respond _

end StateInv

/-- Settles O53, by the agent that moves. -/
theorem stepKeepsInvariant : Obligations.StepKeepsInvariant := by
  intro s t h ht
  obtain ⟨⟨-, hr, -⟩, hs⟩ | ⟨-, hs⟩ | ⟨-, -, hs⟩ := step_cases s <;> rw [hs] at ht
  · exact h.drawn.engineStep (s.drawn_rstN.trans hr) ht
  · exact h.drawn.hostStep ht
  · cases ht
    exact h

/-! ## Writes to the control registers -/

/-- A write to a mapped location is held, or does what a write to that location does. -/
theorem busWrite_of_target {a : Addr} {z : Size} {s : State} {l : Loc} (ht : target s.limbs a z = some l) (d : Word) :
    busWrite a z d s = if l.isHeld && s.busy then .hold else .done .ok (s.writeLoc l d) := by
  simp [busWrite, State.holds, ht]

/-- A write to STATUS, field by field (10_state R30). -/
theorem State.writeStatus_eq (s : State) (d : Word) :
    s.writeStatus d = { s with
      err := s.err && !d[2]
      errcode := if d[2] then .none else s.errcode
      errcmd := if d[2] then 0#32 else s.errcmd
      done := s.done && !d[1] } := by
  cases h2 : d[2] <;> cases h1 : d[1] <;> simp [State.writeStatus, State.clearError, State.clearDone, h1, h2]

/-- A write to CTRL without SRST (10_state R28). -/
theorem State.writeCtrl_of_not_srst {d : Word} (h : d[0] = false) (s : State) :
    s.writeCtrl d = { s with ie := d[1] } := by
  simp [State.writeCtrl, h]

/-- Acceptance while no error is recorded latches the word (10_state R36). -/
theorem State.accept_of_noErr {s : State} (h : s.err = false) (c : Word) :
    s.accept c = { s with pend := c, busy := true, done := false } := by
  simp [State.accept, h]

/-- Acceptance while an error is recorded skips the command (60_exceptions R165). -/
theorem State.accept_of_err {s : State} (h : s.err = true) (c : Word) : s.accept c = { s with done := true } := by
  simp [State.accept, h]

/-- Settles O40, location by location: none of the five is ever held. -/
theorem controlWrites : Obligations.ControlWrites := by
  intro s d
  obtain ⟨hid, hparam, hctrl, hstatus, -, herrcmd⟩ := target_control s.limbs
  refine ⟨busWrite_of_target hid d, busWrite_of_target hparam d, busWrite_of_target herrcmd d, ?_, fun h0 => ?_⟩
  · rw [← s.writeStatus_eq d]
    exact busWrite_of_target hstatus d
  · rw [← s.writeCtrl_of_not_srst h0]
    exact busWrite_of_target hctrl d

/-- Settles O41: CMD is held exactly while BUSY = 1, and a write that is not held is an acceptance. -/
theorem commandAcceptance : Obligations.CommandAcceptance := by
  intro s c
  obtain ⟨-, -, -, -, hcmd, -⟩ := target_control s.limbs
  have hfree (hb : s.busy = false) : busWrite 0x0010#16 .four c s = .done .ok (s.accept c) :=
    (busWrite_of_target hcmd c).trans (if_neg (by simp [hb]))
  refine ⟨fun hb => ?_, fun hb he => ?_, fun hb he => ?_⟩
  · exact (busWrite_of_target hcmd c).trans (if_pos hb)
  · rw [hfree hb, State.accept_of_noErr he]
  · rw [hfree hb, State.accept_of_err he]

/-! ## The engine's move -/

/-- A legal pending word is executed as the command it decodes to (30_encoding R90). -/
theorem engineStep_of_decode {s : State} {i : Instr} (h : decode s.pend = .ok i) : engineStep s = exec i s := by
  simp [engineStep, h]

/-- Settles O31: drawing the next delay leaves the pending word as it is. -/
theorem stepExecutesPendingCommand : Obligations.StepExecutesPendingCommand := by
  intro s i hm hd
  rw [step_of_engineMoves hm]
  exact engineStep_of_decode (s.drawn_pend.symm ▸ hd)

/-- Settles O47: a completed command leaves DONE = 1 and CTRL as it was. -/
theorem interruptFollowsDone : Obligations.InterruptFollowsDone := by
  refine ⟨fun _ => rfl, fun s hm => ?_⟩
  obtain ⟨t, ht, hc, hctx⟩ := engineStep_completes s.drawn
  refine ⟨t, (step_of_engineMoves hm).trans ht, ?_⟩
  rw [State.irq, hctx.ie, hc.done, Bool.and_true, State.drawn_ie]

/-! ## What changes MOD and CA -/

theorem size_of_target {n : Nat} {a : Addr} {z : Size} {l : Loc} (h : target n a z = some l) : z = .four := by
  unfold target at h
  split at h
  · next hz => exact hz.1
  · cases h

/-- Above the control registers the map holds windows only. -/
theorem locate_ne_ctrl {n a : Nat} (ha : 0x1000 ≤ a) : locate n a ≠ some .ctrl := by
  unfold locate
  rw [if_neg (by omega)]
  split
  · nofun
  · split <;> nofun

theorem controlRegister_eq_ctrl {a : Nat} (h : controlRegister a = some .ctrl) : a = 0x0008 := by
  by_contra ha
  rw [controlRegister, if_neg ha] at h
  split_ifs at h <;> cases h

/-- CTRL stands at one offset only (20_memory R52). -/
theorem addr_of_target_ctrl {n : Nat} {a : Addr} {z : Size} (h : target n a z = some .ctrl) : a = 0x0008#16 := by
  unfold target at h
  split at h
  · by_cases ha : a.toNat < 0x1000
    · rw [locate, if_pos ha] at h
      exact BitVec.eq_of_toNat_eq (controlRegister_eq_ctrl h)
    · exact absurd h (locate_ne_ctrl (by omega))
  · cases h

/-- A write to a location changes MOD and CA as a soft reset, or one of them through its window, or neither. -/
theorem writeLoc_mod_ca (l : Loc) (d : Word) (s : State) :
    (l = .ctrl ∧ d[0] = true) ∨ (∃ i, l = .limb .mod i ∧ (s.writeLoc l d).ca = s.ca) ∨
      (∃ i, l = .limb .ca i ∧ (s.writeLoc l d).mod = s.mod) ∨
      (s.writeLoc l d).mod = s.mod ∧ (s.writeLoc l d).ca = s.ca := by
  cases l with
  | id | param | errcmd => exact .inr (.inr (.inr ⟨rfl, rfl⟩))
  | ctrl =>
    cases h0 : d[0] with
    | true => exact .inl ⟨rfl, rfl⟩
    | false => simp [State.writeLoc, State.writeCtrl_of_not_srst h0]
  | status => simp [State.writeLoc, State.writeStatus_eq]
  | cmd =>
    cases he : s.err with
    | true => simp [State.writeLoc, State.accept_of_err he]
    | false => simp [State.writeLoc, State.accept_of_noErr he]
  | limb w i =>
    cases w with
    | gpr => exact .inr (.inr (.inr ⟨rfl, rfl⟩))
    | mod => exact .inr (.inl ⟨i, rfl, rfl⟩)
    | ca => exact .inr (.inr (.inl ⟨i, rfl, rfl⟩))

/-- The input `x` is one that may change MOD or CA on the way from `s` to `t`: the reset input, a soft reset, or a write
to the window of the one that changed. -/
def MayWriteContext (s t : State) (x : Input) : Prop :=
  (∃ level, x = .rst level) ∨ (∃ d, x = .write 0x0008#16 .four d ∧ d[0] = true) ∨
    ∃ a d w i, x = .write a .four d ∧ target s.limbs a .four = some (.limb w i) ∧
      (w = .mod ∧ t.ca = s.ca ∨ w = .ca ∧ t.mod = s.mod)

/-- The outside world's step takes such an input, or leaves MOD and CA alone. -/
theorem hostStep_mod_ca {s t : State} (h : hostStep s = .next t) :
    (∃ x rest, s.inputs = x :: rest ∧ MayWriteContext s t x) ∨ (t.mod = s.mod ∧ t.ca = s.ca) := by
  obtain rfl | ⟨level, rest, hi, -⟩ | ⟨_, _, _, _, -, -, -, rfl⟩ | ⟨a, z, d, l, rest, hi, -, hl, -, rfl⟩ :=
    hostStep_cases h
  · exact .inr ⟨rfl, rfl⟩
  · exact .inl ⟨_, rest, hi, .inl ⟨level, rfl⟩⟩
  · exact .inr ⟨rfl, rfl⟩
  · cases size_of_target hl
    obtain ⟨rfl, h0⟩ | ⟨i, rfl, hca⟩ | ⟨i, rfl, hmod⟩ | ⟨hmod, hca⟩ := writeLoc_mod_ca l d s
    · cases addr_of_target_ctrl hl
      exact .inl ⟨_, rest, hi, .inr (.inl ⟨d, rfl, h0⟩)⟩
    · exact .inl ⟨_, rest, hi, .inr (.inr ⟨a, d, .mod, i, rfl, hl, .inl ⟨rfl, hca⟩⟩)⟩
    · exact .inl ⟨_, rest, hi, .inr (.inr ⟨a, d, .ca, i, rfl, hl, .inr ⟨rfl, hmod⟩⟩)⟩
    · exact .inr ⟨hmod, hca⟩

/-- Settles O46: no command changes MOD or CA, and of the inputs only those of `MayWriteContext` may. -/
theorem onlyHostWritesModAndCa : Obligations.OnlyHostWritesModAndCa := by
  intro s t ht hne
  have hsame : ¬(t.mod = s.mod ∧ t.ca = s.ca) := fun ⟨hmod, hca⟩ => hne.elim (· hmod) (· hca)
  obtain ⟨-, hs⟩ | ⟨hm, hs⟩ | ⟨-, -, hs⟩ := step_cases s <;> rw [hs] at ht
  · have hctx := engineStep_context ht
    exact absurd ⟨hctx.mod.trans s.drawn_mod, hctx.ca.trans s.drawn_ca⟩ hsame
  · obtain hx | h := hostStep_mod_ca ht
    · exact ⟨hm, by simpa [MayWriteContext] using hx⟩
    · exact absurd (by simpa using h) hsame
  · cases ht
    exact absurd ⟨rfl, rfl⟩ hsame

end Sys2Proof.Machine
end

section
namespace Sys2Proof.Machine

open Sys2Proof

/-! ## The host's byte array -/

/-- Cutting the value of a big register at a multiple of 32 bits gives its limbs (00_scope R10). -/
theorem ofNat_bigVal_shift (b : Big) (i : Nat) : BitVec.ofNat 32 (bigVal b / 2 ^ (32 * i)) = b.getD i 0#32 := by
  induction b generalizing i with
  | nil => simp [bigVal]
  | cons w ws ih =>
    cases i with
    | zero =>
      apply BitVec.eq_of_toNat_eq
      simp [bigVal, Nat.mod_eq_of_lt w.isLt]
    | succ i =>
      have hdiv : bigVal (w :: ws) / 2 ^ (32 * (i + 1)) = bigVal ws / 2 ^ (32 * i) := by
        have hw := w.isLt
        rw [show 32 * (i + 1) = 32 + 32 * i by ring, pow_add, ← Nat.div_div_eq_div_mul, bigVal]
        congr 1
        omega
      rw [hdiv, ih, List.getD_cons_succ]

/-- Lane `k` of a word cut from a value is the byte 8·k bits further up. -/
theorem byteLane_ofNat (v : Nat) {k : Nat} (hk : k < 4) :
    byteLane (BitVec.ofNat 32 v) k = BitVec.ofNat 8 (v / 2 ^ (8 * k)) := by
  apply BitVec.eq_of_getLsbD_eq
  intro j hj
  have hlow : j + 8 * k < 32 := by omega
  rw [byteLane, BitVec.getLsbD_extractLsb', BitVec.getLsbD_ofNat, BitVec.getLsbD_ofNat, Nat.testBit_div_two_pow]
  simp [hj, hlow, Nat.add_comm (8 * k) j]

/-- A word is its four byte lanes, lane 3 at the top (20_memory R54). -/
theorem byteLanes_append (w : Word) : byteLane w 3 ++ byteLane w 2 ++ byteLane w 1 ++ byteLane w 0 = w := by
  unfold byteLane
  rw [BitVec.extractLsb'_append_extractLsb'_eq_extractLsb' (by rfl),
    BitVec.extractLsb'_append_extractLsb'_eq_extractLsb' (by rfl),
    BitVec.extractLsb'_append_extractLsb'_eq_extractLsb' (by rfl)]
  exact BitVec.extractLsb'_eq_self

theorem bigEndianBytes_getD {n j : Nat} (v : Nat) (hj : j < 4 * n) :
    (bigEndianBytes n v).getD j 0#8 = bigEndianByte n v j := by
  simp [bigEndianBytes, hj]

/-- Byte `k` of limb `i`'s four in the host's array is lane `3 - k` of the limb (20_memory R53). -/
theorem bigEndianBytes_eq_byteLane {b : Big} {i k : Nat} (hi : i < b.length) (hk : k < 4) :
    (bigEndianBytes b.length (bigVal b)).getD (4 * (b.length - 1 - i) + k) 0#8 = byteLane (b.getD i 0#32) (3 - k) := by
  have hpos : 8 * (4 * b.length - 1 - (4 * (b.length - 1 - i) + k)) = 32 * i + 8 * (3 - k) := by omega
  rw [bigEndianBytes_getD _ (by omega), bigEndianByte, hpos, pow_add, ← Nat.div_div_eq_div_mul,
    ← byteLane_ofNat _ (by omega), ofNat_bigVal_shift]

/-- Settles O6: the four bytes are the limb's lanes, the top lane first. -/
theorem limbsAreBigEndianBytes : Obligations.LimbsAreBigEndianBytes := by
  intro b i hi
  have hlane {k : Nat} (hk : k < 4) := bigEndianBytes_eq_byteLane hi hk
  have h := byteLanes_append (b.getD i 0#32)
  rw [← hlane (k := 0) (by omega), ← hlane (k := 1) (by omega), ← hlane (k := 2) (by omega),
    ← hlane (k := 3) (by omega)] at h
  exact h.symm

/-! ## The address map -/

/-- The window in block `k` starts at offset 0x200·k (20_memory R52). -/
theorem base_of_windowAt {k : Nat} {w : Window} (h : windowAt k = some w) : w.base = 0x200 * k := by
  unfold windowAt at h
  split_ifs at h with hr hm hc
  · cases h
    simp only [Window.base]
    omega
  · cases h
    rw [hm, Window.base]
  · cases h
    rw [hc, Window.base]

/-- The control registers' offsets. -/
theorem mem_of_controlRegister {a : Nat} {l : Loc} (h : controlRegister a = some l) :
    a ∈ [0x0000, 0x0004, 0x0008, 0x000C, 0x0010, 0x0014] := by
  by_contra hmem
  simp only [List.mem_cons, List.not_mem_nil, or_false, not_or] at hmem
  obtain ⟨hid, hparam, hctrl, hstatus, hcmd, herrcmd⟩ := hmem
  simp [controlRegister, *] at h

/-- What the map has at an aligned offset is a control register, or a limb at its place in its window. -/
theorem offset_of_locate {n a : Nat} {l : Loc} (ha : a % 4 = 0) (h : locate n a = some l) :
    a ∈ [0x0000, 0x0004, 0x0008, 0x000C, 0x0010, 0x0014] ∨ ∃ (w : Window) (i : Nat), i < n ∧ a = w.base + 4 * i := by
  unfold locate at h
  split at h
  · exact .inl (mem_of_controlRegister h)
  · split at h
    · cases h
    next w hw =>
      split at h
      · refine .inr ⟨w, a % 0x200 / 4, ‹_›, ?_⟩
        rw [base_of_windowAt hw]
        omega
      · cases h

/-- The three forms of a window's offset (20_memory R52). -/
theorem exists_window_iff {P : Nat → Prop} : (∃ w : Window, P w.base) ↔
    (∃ r < 16, P (0x1000 + 0x200 * r)) ∨ P 0x3000 ∨ P 0x3200 := by
  constructor
  · rintro ⟨r | _ | _, h⟩
    · exact .inl ⟨r.val, r.isLt, h⟩
    · exact .inr (.inl h)
    · exact .inr (.inr h)
  · rintro (⟨r, hr, h⟩ | h | h)
    · exact ⟨.gpr ⟨r, hr⟩, h⟩
    · exact ⟨.mod, h⟩
    · exact ⟨.ca, h⟩

theorem isSome_target_control (n : Nat) :
    ∀ a ∈ [0x0000, 0x0004, 0x0008, 0x000C, 0x0010, 0x0014], (target n (BitVec.ofNat 16 a) .four).isSome = true := by
  obtain ⟨hid, hparam, hctrl, hstatus, hcmd, herrcmd⟩ := target_control n
  simp [*]

/-- A good transaction is a 32-bit one at a control register or at a limb's place in a window (20_memory R55). -/
theorem target_isSome_iff {n : Nat} (addr : Addr) (size : Size) (hn : n ≤ 128) :
    (target n addr size).isSome = true ↔ size = .four ∧
      (addr.toNat ∈ [0x0000, 0x0004, 0x0008, 0x000C, 0x0010, 0x0014] ∨
        ∃ w : Window, ∃ i < n, addr.toNat = w.base + 4 * i) := by
  have haddr {m : Nat} (hm : addr.toNat = m) : addr = BitVec.ofNat 16 m := by simp [← hm]
  constructor
  · intro h
    obtain ⟨l, hl⟩ := Option.isSome_iff_exists.mp h
    unfold target at hl
    split at hl
    next hgood => exact ⟨hgood.1, offset_of_locate hgood.2 hl⟩
    next => cases hl
  · rintro ⟨rfl, hmem | ⟨w, i, hi, ha⟩⟩
    · rw [haddr rfl]
      exact isSome_target_control n _ hmem
    · rw [haddr ha, target_base w hn hi]
      rfl

/-- Settles O36, the windows written out. -/
theorem mappedTransactions : Obligations.MappedTransactions := by
  intro n addr size hn
  rw [target_isSome_iff addr size hn, exists_window_iff (P := fun base => ∃ i < n, addr.toNat = base + 4 * i)]

/-! ## What the port answers -/

/-- A read of a mapped location is held, or answers with the location's word and changes nothing. -/
theorem busRead_of_target {a : Addr} {z : Size} {s : State} {l : Loc} (ht : target s.limbs a z = some l) :
    busRead a z s = if l.isHeld && s.busy then .hold else .done (.data (s.readLoc l)) s := by
  simp [busRead, State.holds, ht]

theorem busRead_window {s : State} {i : Nat} (hn : s.limbs ≤ 128) (hi : i < s.limbs) (w : Window) :
    busRead (BitVec.ofNat 16 (w.base + 4 * i)) .four s =
      if s.busy then .hold else .done (.data ((s.window w).getD i 0#32)) s :=
  busRead_of_target (target_base w hn hi)

theorem busWrite_window {s : State} {i : Nat} (hn : s.limbs ≤ 128) (hi : i < s.limbs) (w : Window) (d : Word) :
    busWrite (BitVec.ofNat 16 (w.base + 4 * i)) .four d s =
      if s.busy then .hold else .done .ok (s.setWindow w ((s.window w).set i d)) :=
  busWrite_of_target (target_base w hn hi) d

/-- PARAM as a number (10_state R34). -/
theorem State.paramWord_eq {s : State} (hn : s.limbs ≤ 128) :
    s.paramWord = BitVec.ofNat 32 (0x00100000 + s.limbs) := by
  have hlow : s.limbs < 2 ^ 16 := by omega
  have hor : 16 <<< 16 + s.limbs = 16 <<< 16 ||| s.limbs := Nat.shiftLeft_add_eq_or_of_lt hlow 16
  apply BitVec.eq_of_toNat_eq
  show (0#8 ++ 16#8 ++ BitVec.ofNat 16 s.limbs).toNat = _
  rw [BitVec.toNat_append, BitVec.toNat_ofNat, BitVec.toNat_ofNat, Nat.mod_eq_of_lt hlow]
  exact hor.symm.trans (Nat.mod_eq_of_lt (by omega)).symm

/-- CTRL as a number (10_state R28). -/
theorem State.ctrlWord_eq (s : State) : s.ctrlWord = BitVec.ofNat 32 (2 * s.ie.toNat) := by
  cases h : s.ie <;> simp [State.ctrlWord, h]

/-- STATUS as a number (10_state R29). -/
theorem State.statusWord_eq (s : State) :
    s.statusWord = BitVec.ofNat 32
      (256 * s.errcode.code.toNat + 4 * s.err.toNat + 2 * s.done.toNat + s.busy.toNat) := by
  have h : ∀ (c : BitVec 4) (e d b : Bool),
      (0#20 ++ c ++ 0#5 ++ BitVec.ofBool e ++ BitVec.ofBool d ++ BitVec.ofBool b : BitVec 32) =
        BitVec.ofNat 32 (256 * c.toNat + 4 * e.toNat + 2 * d.toNat + b.toNat) := by decide
  exact h s.errcode.code s.err s.done s.busy

/-- Settles O38, location by location. -/
theorem busReadGivesTheMap : Obligations.BusReadGivesTheMap := by
  intro s hn
  obtain ⟨hid, hparam, hctrl, hstatus, hcmd, herrcmd⟩ := target_control s.limbs
  rw [← State.paramWord_eq hn, ← s.ctrlWord_eq, ← s.statusWord_eq]
  exact ⟨busRead_of_target hid, busRead_of_target hparam, busRead_of_target hctrl, busRead_of_target hstatus,
    busRead_of_target hcmd, busRead_of_target herrcmd, fun i hi =>
      ⟨fun r => busRead_window hn hi (.gpr r), busRead_window hn hi .mod, busRead_window hn hi .ca⟩⟩

/-- Settles O39, window by window. -/
theorem windowWriteChangesOneLimb : Obligations.WindowWriteChangesOneLimb := fun _ _ d hn hi =>
  ⟨fun r => busWrite_window hn hi (.gpr r) d, busWrite_window hn hi .mod d, busWrite_window hn hi .ca d⟩

/-- A completed read has changed nothing. -/
theorem state_of_busRead_done {a : Addr} {z : Size} {s t : State} {r : Response} (h : busRead a z s = .done r t) :
    t = s := by
  obtain ⟨-, hb⟩ | ⟨-, hb⟩ | ⟨l, -, hb⟩ := busRead_cases a z s <;> cases hb.symm.trans h
  rfl

/-- A completed write has touched neither the inputs nor the answers. -/
theorem lists_of_busWrite_done {a : Addr} {z : Size} {d : Word} {s t : State} {r : Response}
    (h : busWrite a z d s = .done r t) : t.inputs = s.inputs ∧ t.responses = s.responses := by
  obtain ⟨-, hb⟩ | ⟨-, hb⟩ | ⟨l, -, -, hb⟩ := busWrite_cases a z d s <;> cases hb.symm.trans h
  obtain ⟨-, -, hinputs, hresponses, -⟩ := writeLoc_env l d s
  exact ⟨hinputs, hresponses⟩

/-! ## The step with a transaction next -/

/-- The input is a transaction at `a` of size `z`: the read, or the write of some word. -/
inductive Input.Accesses (a : Addr) (z : Size) : Input → Prop
  | read : Input.Accesses a z (.read a z)
  | write (d : Word) : Input.Accesses a z (.write a z d)

section
variable {s : State} {a : Addr} {z : Size} {d : Word} {x : Input} {rest : List Input}

theorem holds_of_target {l : Loc} (ht : target s.limbs a z = some l) : s.holds a z = (l.isHeld && s.busy) := by
  simp [State.holds, ht]

/-- A bad transaction is never held (20_memory R55). -/
theorem holds_of_unmapped (ht : target s.limbs a z = none) : s.holds a z = false := by
  simp [State.holds, ht]

theorem holds_of_idle (hb : s.busy = false) (a : Addr) (z : Size) : s.holds a z = false := by
  unfold State.holds
  split
  · rfl
  · simp [hb]

theorem busRead_of_unmapped (ht : target s.limbs a z = none) : busRead a z s = .buserr := by
  simp [busRead, ht]

theorem busWrite_of_unmapped (ht : target s.limbs a z = none) (d : Word) : busWrite a z d s = .buserr := by
  simp [busWrite, ht]

/-- The outside world can move with a transaction next unless that has to wait (20_memory R60, R63). -/
theorem hostReady_of_accesses (hx : x.Accesses a z) (hi : s.inputs = x :: rest) (hr : s.rstN = true) :
    s.hostReady = !s.holds a z := by
  cases hx <;> simp [State.hostReady, State.portBlocked, hi, hr]

/-- With nothing pending a transaction never waits. -/
theorem hostMoves_of_idle (hb : s.busy = false) (hr : s.rstN = true) (hx : x.Accesses a z)
    (hi : s.inputs = x :: rest) : s.hostMoves :=
  ⟨by rw [hostReady_of_accesses hx hi hr, holds_of_idle hb]; rfl, by simp [State.engineReady, hb]⟩

/-- When the host moves with a read next, the step is that read. -/
theorem step_read (hm : s.hostMoves) (hr : s.rstN = true) (hi : s.inputs = .read a z :: rest) :
    step s = finishTransaction (busRead a z s.drawn) s.drawn := by
  rw [step_of_hostMoves hm]
  simp [hostStep, hi, hr]

/-- When the host moves with a write next, the step is that write. -/
theorem step_write (hm : s.hostMoves) (hr : s.rstN = true) (hi : s.inputs = .write a z d :: rest) :
    step s = finishTransaction (busWrite a z d s.drawn) s.drawn := by
  rw [step_of_hostMoves hm]
  simp [hostStep, hi, hr]

/-- A transaction that has to wait leaves the engine alone with the move (20_memory R60). -/
theorem step_of_held (hb : s.busy = true) (hr : s.rstN = true) (hx : x.Accesses a z) (hi : s.inputs = x :: rest)
    (hh : s.holds a z = true) : step s = engineStep s := by
  have hhost : s.hostReady = false := by rw [hostReady_of_accesses hx hi hr, hh]; rfl
  have hm : s.engineMoves := ⟨hb, hr, by simp [hhost]⟩
  rw [step_of_engineMoves hm]
  simp [State.drawn, hhost]

end

/-- Settles O37: a bad transaction is never held, so the host moves with it when the order says so. -/
theorem badTransactionIsBusError : Obligations.BadTransactionIsBusError := by
  intro s a z d ht
  have ht' : target s.drawn.limbs a z = none := by rw [s.drawn_limbs, ht]
  refine ⟨busRead_of_unmapped ht, busWrite_of_unmapped ht d, fun hr hdelay rest => ?_⟩
  have hmoves {x : Input} (hx : x.Accesses a z) (hi : s.inputs = x :: rest) : s.hostMoves :=
    ⟨by rw [hostReady_of_accesses hx hi hr, holds_of_unmapped ht]; rfl, hdelay⟩
  constructor <;> intro hi
  · rw [step_read (hmoves .read hi) hr hi, busRead_of_unmapped ht']
    rfl
  · rw [step_write (hmoves (.write d) hi) hr hi, busWrite_of_unmapped ht']
    rfl

/-- Settles O42: the port is blocked, and the engine's step keeps the surroundings. -/
theorem heldTransactionWaits : Obligations.HeldTransactionWaits := by
  intro s a z d rest l hb hr ht hl hi
  have hh : s.holds a z = true := by rw [holds_of_target ht, hl, hb]; rfl
  have hstep : step s = engineStep s := by
    obtain hi | hi := hi
    · exact step_of_held hb hr .read hi hh
    · exact step_of_held hb hr (.write d) hi hh
  obtain ⟨t, he, hc, hctx⟩ := engineStep_completes s
  exact ⟨hstep, t, hstep.trans he, hc.busy, hctx.inputs, hctx.responses⟩

/-- A completed transaction is taken from the inputs, and its answer is the newest one. -/
theorem finishTransaction_done {s t u : State} {r : Response} {x : Input} {rest : List Input}
    (hi : s.inputs = x :: rest) (hinputs : t.inputs = s.inputs) (hresponses : t.responses = s.responses) :
    finishTransaction (.done r t) u = .next { t with inputs := rest, responses := s.responses ++ [r] } := by
  simp [finishTransaction, State.popInput, State.respond, hinputs, hresponses, hi]

/-- Settles O58: beside the transaction's own effect only the two lists change. -/
theorem hostStepPerformsTransaction : Obligations.HostStepPerformsTransaction := by
  rintro s t r a z d rest hm hr (⟨hi, hb⟩ | ⟨hi, hb⟩)
  · obtain rfl := state_of_busRead_done hb
    rw [step_read hm hr hi, hb]
    exact finishTransaction_done hi s.drawn_inputs s.drawn_responses
  · obtain ⟨hinputs, hresponses⟩ := lists_of_busWrite_done hb
    rw [step_write hm hr hi, hb]
    exact finishTransaction_done hi (hinputs.trans s.drawn_inputs) (hresponses.trans s.drawn_responses)

/-- With nothing pending the host's transaction is performed at once. -/
theorem step_transaction_of_idle {s t : State} {r : Response} {a : Addr} {z : Size} {d : Word} {rest : List Input}
    (hr : s.rstN = true) (hb : s.busy = false)
    (h : s.inputs = .read a z :: rest ∧ busRead a z s = .done r t ∨
      s.inputs = .write a z d :: rest ∧ busWrite a z d s = .done r t) :
    step s = .next { t with inputs := rest, responses := s.responses ++ [r] } := by
  have hidle : s.drawn = s := drawn_of_idle (by simp [State.engineReady, hb])
  have hm : s.hostMoves :=
    h.elim (fun h => hostMoves_of_idle hb hr .read h.1) (fun h => hostMoves_of_idle hb hr (.write d) h.1)
  exact hostStepPerformsTransaction s t r a z d rest hm hr (hidle.symm ▸ h)

/-- With nothing pending and no error recorded a CMD write is accepted at once (10_state R36). -/
theorem step_accept {s : State} {c : Word} {rest : List Input} (hr : s.rstN = true) (hb : s.busy = false)
    (he : s.err = false) (hi : s.inputs = .write 0x0010#16 .four c :: rest) :
    step s = .next { s with
      inputs := rest, responses := s.responses ++ [.ok], pend := c, busy := true, done := false } := by
  obtain ⟨-, haccept, -⟩ := commandAcceptance s c
  rw [step_transaction_of_idle hr hb (.inr ⟨hi, haccept hb he⟩)]

/-- A held read is answered in the step after the engine's, from the state that step left (20_memory R60, R64). -/
theorem run_held_read {s t : State} {a : Addr} {z : Size} {l : Loc} {rest : List Input} (he : engineStep s = .next t)
    (hb : s.busy = true) (hr : s.rstN = true) (hi : s.inputs = .read a z :: rest) (ht : target s.limbs a z = some l)
    (hl : l.isHeld = true) :
    Host.Core.run Sys2Proof.core 2 s =
      .next { t with inputs := rest, responses := s.responses ++ [.data (t.readLoc l)] } := by
  have hheld : s.holds a z = true := by rw [holds_of_target ht, hl, hb]; rfl
  obtain ⟨_, hu, hc, hctx⟩ := engineStep_completes s
  cases hu.symm.trans he
  have hread : busRead a z t = .done (.data (t.readLoc l)) t :=
    (busRead_of_target (hctx.limbs.symm ▸ ht)).trans (if_neg (by simp [hc.busy]))
  have hstep := step_transaction_of_idle (d := 0#32) (hctx.rstN.trans hr) hc.busy (.inl ⟨hctx.inputs.trans hi, hread⟩)
  rw [run_succ ((step_of_held hb hr .read hi hheld).trans he), run_succ hstep, run_zero, hctx.responses]

/-- Settles O43: the acceptance, and then the window read held until the engine's step. -/
theorem windowReadSeesCommandResult : Obligations.WindowReadSeesCommandResult := by
  intro s t c a w i rest hr hb he ht hi hengine
  rw [run_succ (step_accept hr hb he hi), run_held_read hengine rfl hr rfl ht rfl]
  simp [State.readLoc]

/-! ## The inputs and the answers -/

section
variable (level : Bool) (s : State)

@[simp] theorem State.driveRst_inputs : (s.driveRst level).inputs = s.inputs := by
  unfold State.driveRst
  split <;> rfl

@[simp] theorem State.driveRst_responses : (s.driveRst level).responses = s.responses := by
  unfold State.driveRst
  split <;> rfl

end

/-- From `s` to `t` the inputs and the answers stayed as they were, or the oldest input was taken and answered as its kind
is (20_memory R63). -/
def TakesInOrder (s t : State) : Prop :=
  (t.inputs = s.inputs ∧ t.responses = s.responses) ∨
    ∃ x, s.inputs = x :: t.inputs ∧
      ((∃ level, x = .rst level) ∧ t.responses = s.responses ∨
        (∃ a z w, x = .read a z ∧ t.responses = s.responses ++ [.data w]) ∨
        ∃ a z d, x = .write a z d ∧ t.responses = s.responses ++ [.ok])

theorem hostStep_takesInOrder {s t : State} (h : hostStep s = .next t) : TakesInOrder s t := by
  obtain rfl | ⟨level, rest, hi, rfl⟩ | ⟨a, z, l, rest, hi, -, -, rfl⟩ | ⟨a, z, d, l, rest, hi, -, -, -, rfl⟩ :=
    hostStep_cases h
  · exact .inl ⟨rfl, rfl⟩
  · exact .inr ⟨.rst level, by simp [hi], .inl ⟨⟨level, rfl⟩, by simp⟩⟩
  · exact .inr ⟨.read a z, by simp [hi], .inr (.inl ⟨a, z, _, rfl, rfl⟩)⟩
  · obtain ⟨-, -, hinputs, hresponses, -⟩ := writeLoc_env l d s
    exact .inr ⟨.write a z d, by simp [hi, hinputs], .inr (.inr ⟨a, z, d, rfl, by simp [hresponses]⟩)⟩

/-- Settles O56, by the agent that moves. -/
theorem inputsTakenInOrder : Obligations.InputsTakenInOrder := by
  intro s t h
  obtain ⟨-, hs⟩ | ⟨-, hs⟩ | ⟨-, -, hs⟩ := step_cases s <;> rw [hs] at h
  · have hctx := engineStep_context h
    exact .inl ⟨hctx.inputs.trans s.drawn_inputs, hctx.responses.trans s.drawn_responses⟩
  · simpa [TakesInOrder] using hostStep_takesInOrder h
  · cases h
    exact .inl ⟨rfl, rfl⟩

/-- Settles O33: with both agents ready the delay alone says which one moves. -/
theorem eitherOrderIsAdmitted : Obligations.EitherOrderIsAdmitted := by
  intro s he hh
  have hready (n : Nat) :
      (({ s with delay := n } : State).engineReady && ({ s with delay := n } : State).hostReady) = true :=
    Bool.and_eq_true_iff.mpr ⟨he, hh⟩
  refine ⟨?_, fun n => ?_⟩
  · rw [step, if_pos (hready 0), if_pos rfl]
    rfl
  · rw [step, if_pos (hready (n + 1)), if_neg n.succ_ne_zero]
    rfl

end Sys2Proof.Machine
end

section
namespace Sys2Proof

/-! ## The opcode map and its inverse -/

/-- Every command's fields keep the reserved bits 0 (30_encoding R87). -/
@[simp] theorem Instr.fields_res (i : Instr) : i.fields.res = 0#8 := by
  cases i <;> rfl

/-- The opcode map reads a command back from its fields, well formed or not (30_encoding R85). -/
@[simp] theorem byOpcode_fields (i : Instr) : byOpcode i.fields = .ok i := by
  cases i <;> rfl

/-- The last check lets a well-formed command through (30_encoding R83, R91). -/
@[simp] theorem requireWellFormed_of_wf {i : Instr} (hw : i.wf = true) : requireWellFormed (.ok i) = .ok i := by
  simp [requireWellFormed, hw]

/-- The check of the fields marked 0 changes no command (30_encoding R86). -/
theorem requireZero_eq_ok {zeros : List RegIdx} {i j : Instr} (h : requireZero zeros j = .ok i) :
    (∀ z ∈ zeros, z = 0) ∧ j = i := by
  unfold requireZero at h
  split at h
  next hz => exact ⟨by simpa using hz, by simpa using h⟩
  next => cases h

/-- The opcode map loses no field but the reserved bits: opcode and operands are the command's, and what the command does
not use is 0 (30_encoding R86). -/
theorem fields_of_byOpcode {f : Fields} {i : Instr} (hres : f.res = 0#8) (h : byOpcode f = .ok i) : i.fields = f := by
  obtain ⟨op, rd, rs1, rs2, rx, res⟩ := f
  have hop {n : Nat} (hn : op.toNat = n) : op = BitVec.ofNat 8 n := by simp [← hn]
  cases hres
  unfold byOpcode at h
  split at h
  case h_13 => cases h
  all_goals
    next hn =>
      obtain ⟨hz, rfl⟩ := requireZero_eq_ok h
      simp_all [Instr.fields, hop hn]

/-- A word decodes to a command exactly when it holds the command's fields and the command has an encoding. -/
theorem decode_eq_ok_iff {c : Word} {i : Instr} : decode c = .ok i ↔ fieldsOf c = i.fields ∧ i.wf = true := by
  constructor
  · intro h
    obtain ⟨hres, hop, hw⟩ := decode_ok h
    exact ⟨(fields_of_byOpcode hres hop).symm, hw⟩
  · rintro ⟨hf, hw⟩
    simp [decode, hf, hw]

/-- A word is refused exactly when it holds the fields of no command that has an encoding. -/
theorem decode_eq_error_iff {c : Word} :
    (∃ e, decode c = .error e) ↔ ∀ i : Instr, fieldsOf c = i.fields → i.wf = false := by
  cases h : decode c with
  | error e =>
    refine ⟨fun _ i hf => ?_, fun _ => ⟨e, rfl⟩⟩
    by_contra hw
    cases h.symm.trans (decode_eq_ok_iff.mpr ⟨hf, by simpa using hw⟩)
  | ok i =>
    obtain ⟨hf, hw⟩ := decode_eq_ok_iff.mp h
    exact ⟨nofun, fun hall => nomatch hw.symm.trans (hall i hf)⟩

/-- Settles O2: an assembled word holds the fields it was assembled from. -/
theorem decodeOfEncodeIsTheCommand : Obligations.DecodeOfEncodeIsTheCommand := fun i hw =>
  decode_eq_ok_iff.mpr ⟨fieldsOf_assemble i.fields, hw⟩

/-- Settles O3: a word is the assembly of its fields. -/
theorem encodeOfDecodeIsTheWord : Obligations.EncodeOfDecodeIsTheWord := by
  intro c i h
  obtain ⟨hf, hw⟩ := decode_eq_ok_iff.mp h
  exact ⟨hw, by rw [encode, ← hf, assemble_fieldsOf]⟩

/-! ## The illegal words -/

/-- Settles O57: a word that breaks none of the rules holds the fields of the command its opcode names, and the fields of a
command that has an encoding break none. -/
theorem illegalWordsExactly : Obligations.IllegalWordsExactly := by
  intro f
  rw [decode_eq_error_iff, fieldsOf_assemble]
  constructor
  · intro h
    by_contra hlegal
    obtain ⟨op, rd, rs1, rs2, rx, res⟩ := f
    simp only [not_or, not_and, not_not] at hlegal
    obtain ⟨hop, hres, hrx, hrs2, hpadd, hpdbl, hdest⟩ := hlegal
    simp only [List.mem_cons, List.not_mem_nil, or_false] at hop
    obtain rfl | rfl | rfl | rfl | rfl | rfl | rfl | rfl | rfl | rfl | rfl | rfl := hop
    · simpa [Instr.fields, Instr.wf, *] using h (.add rd rs1 rs2)
    · simpa [Instr.fields, Instr.wf, *] using h (.sub rd rs1 rs2)
    · simpa [Instr.fields, Instr.wf, *] using h (.mul rd rs1 rs2)
    · simpa [Instr.fields, Instr.wf, *] using h (.mulw rd rx rs1 rs2)
    · simpa [Instr.fields, Instr.wf, *] using h (.divrem rd rx rs1 rs2)
    · simpa [Instr.fields, Instr.wf, *] using h (.radd rd rs1 rs2)
    · simpa [Instr.fields, Instr.wf, *] using h (.rsub rd rs1 rs2)
    · simpa [Instr.fields, Instr.wf, *] using h (.rmul rd rs1 rs2)
    · simpa [Instr.fields, Instr.wf, *] using h (.rinv rd rs1)
    · simpa [Instr.fields, Instr.wf, *] using h (.padd rd rs1 rs2)
    · simpa [Instr.fields, Instr.wf, *] using h (.pdbl rd rs1)
    · simpa [Instr.fields, Instr.wf, *] using h (.pmul rd rs1 rs2)
  · rintro h i rfl
    cases i with
    | add | sub | mul | radd | rsub | rmul | rinv => simp [Instr.fields] at h
    | mulw | divrem => simpa [Instr.fields, Instr.wf] using h
    | padd | pdbl | pmul =>
      simp [Instr.fields, Instr.wf] at h ⊢
      omega

/-! ## The opcode table -/

/-- The bits two words have in common, field by field. -/
def Fields.and (f g : Fields) : Fields :=
  ⟨f.op &&& g.op, f.rd &&& g.rd, f.rs1 &&& g.rs1, f.rs2 &&& g.rs2, f.rx &&& g.rx, f.res &&& g.res⟩

theorem regField_and (a b : BitVec 4) : regField (a &&& b) = regField a &&& regField b := by
  revert a b
  decide

theorem fieldsOf_and (c d : Word) : fieldsOf (c &&& d) = (fieldsOf c).and (fieldsOf d) := by
  simp [fieldsOf, Fields.and, BitVec.extractLsb'_and, regField_and]

theorem fieldsOf_injective : Function.Injective fieldsOf :=
  Function.LeftInverse.injective assemble_fieldsOf

/-- A row fits a word field by field: mask and pattern are words of the same format (30_encoding R81, R90). -/
theorem Row.fits_iff (r : Row) (c : Word) :
    r.fits c = true ↔ (fieldsOf c).and (fieldsOf r.mask) = fieldsOf r.pattern := by
  rw [Row.fits, beq_iff_eq, ← fieldsOf_injective.eq_iff, fieldsOf_and]

/-- The masks of a register field: none of it, the bit that makes a register odd, and all of it. -/
theorem regField_masks : regField 0#4 = 0 ∧ regField 1#4 = 1 ∧ regField 15#4 = 15 := ⟨rfl, rfl, rfl⟩

theorem regIdx_and_masks (r : RegIdx) : r &&& 0 = 0 ∧ (r &&& 1 = 0 ↔ r.val % 2 = 0) ∧ r &&& 15 = r := by
  revert r
  decide

theorem byte_and_mask (b : Byte) : b &&& 0xFF#8 = b := BitVec.and_allOnes

/-- Every row fixes the whole opcode, so the rows that fit a word are rows of its opcode. -/
theorem opcode_of_fits {r : Row} (hr : r ∈ opcodeTable) {c : Word} (h : r.fits c = true) :
    (fieldsOf c).op = (fieldsOf r.pattern).op := by
  have hmask : ∀ r ∈ opcodeTable, (fieldsOf r.mask).op = 0xFF#8 := by decide
  rw [← (r.fits_iff c).mp h, Fields.and, hmask r hr, byte_and_mask]

theorem row_of_opcode_unique : ∀ r₁ ∈ opcodeTable, ∀ r₂ ∈ opcodeTable,
    (fieldsOf r₁.pattern).op = (fieldsOf r₂.pattern).op → r₁ = r₂ := by
  decide

/-- The table's row of an opcode. -/
def rowOfOpcode (op : Byte) : Option Row := opcodeTable.find? fun r => (fieldsOf r.pattern).op == op

/-- Every command that has an encoding has a row, which fits its fields. -/
theorem exists_row {i : Instr} (hw : i.wf = true) : ∃ r, rowOfOpcode i.fields.op = some r ∧
    i.fields.and (fieldsOf r.mask) = fieldsOf r.pattern ∧ r.mnemonic = i.mnemonic ∧
    (r.twoDest = true → i.fields.rd ≠ i.fields.rx) := by
  cases i
  all_goals
    refine ⟨_, rfl, ?_, rfl, ?_⟩
    all_goals
      simp [Instr.wf] at hw
      simp [hw, Instr.fields, Fields.and, fieldsOf, regField_masks, regIdx_and_masks, byte_and_mask]

/-- A row that fits a word leaves it legal but for one destination twice: the rest of what makes a word illegal is in the
masks. -/
theorem sameDestinations_of_fits {r : Row} (hr : r ∈ opcodeTable) {c : Word} (hfits : r.fits c = true) {e : Illegal}
    (h : decode c = .error e) : r.twoDest = true ∧ (fieldsOf c).rd = (fieldsOf c).rx := by
  have hill := (illegalWordsExactly (fieldsOf c)).mp ⟨e, by rwa [assemble_fieldsOf]⟩
  rw [Row.fits_iff] at hfits
  generalize fieldsOf c = f at hill hfits ⊢
  obtain ⟨op, rd, rs1, rs2, rx, res⟩ := f
  simp only [opcodeTable, List.mem_cons, List.not_mem_nil, or_false] at hr
  obtain rfl | rfl | rfl | rfl | rfl | rfl | rfl | rfl | rfl | rfl | rfl | rfl := hr
  all_goals
    simp [Fields.and, fieldsOf, regField_masks, regIdx_and_masks, byte_and_mask] at hfits
    simp [hfits] at hill
  · exact ⟨rfl, hill⟩
  · exact ⟨rfl, hill⟩

/-- Settles O4: the row of an accepted word is that of its command, and the rows that fit one word have its opcode. -/
theorem decodeFollowsOpcodeTable : Obligations.DecodeFollowsOpcodeTable := by
  refine ⟨fun c i h => ?_, fun c e h r hr hfits => sameDestinations_of_fits hr hfits h,
    fun c r₁ h₁ r₂ h₂ hf₁ hf₂ => ?_⟩
  · obtain ⟨hf, hw⟩ := decode_eq_ok_iff.mp h
    obtain ⟨r, hr, hfits, hname, htwo⟩ := exists_row hw
    rw [← hf] at hfits htwo
    exact ⟨r, List.mem_of_find?_eq_some hr, (r.fits_iff c).mpr hfits, hname, htwo⟩
  · exact row_of_opcode_unique r₁ h₁ r₂ h₂ ((opcode_of_fits h₁ hf₁).symm.trans (opcode_of_fits h₂ hf₂))

/-- Settles O1: the legal words decode as every assembled word does, and the last one is refused. -/
theorem exampleWordsDecode : Obligations.ExampleWordsDecode := by
  have decode_word {i : Instr} {c : Word} (hw : i.wf = true) (h : encode i = c) : decode c = .ok i :=
    h ▸ decodeOfEncodeIsTheCommand i hw
  exact ⟨rfl, rfl, rfl, rfl, rfl, rfl, rfl, rfl, decode_word rfl rfl, decode_word rfl rfl, decode_word rfl rfl,
    decode_word rfl rfl, decode_word rfl rfl, decode_word rfl rfl, decode_word rfl rfl, by decide⟩

end Sys2Proof
end

section
namespace Sys2Proof.Machine

open Sys2Proof

/-! ## An illegal word at the engine -/

/-- An illegal pending word raises ILLEGAL (30_encoding R88). -/
theorem engineStep_of_refused {s : State} {e : Illegal} (h : decode s.pend = .error e) :
    engineStep s = fail .illegal s := by
  simp [engineStep, h]

/-- Settles O32: drawing the next delay leaves the pending word as it is. -/
theorem stepRaisesIllegal : Obligations.StepRaisesIllegal := by
  intro s e hm hd
  rw [step_of_engineMoves hm, engineStep_of_refused (s.drawn_pend.symm ▸ hd)]
  exact fail_spec .illegal s.drawn

/-! ## The host operation WR -/

/-- The limbs of a value, each cut from it at its place. -/
theorem bigOfNat_eq_map (n v : Nat) :
    bigOfNat n v = (List.range n).map fun i => BitVec.ofNat 32 (v / 2 ^ (32 * i)) := by
  induction n generalizing v with
  | zero => rfl
  | succ n ih =>
    have hdiv (i : Nat) : v / 2 ^ 32 / 2 ^ (32 * i) = v / 2 ^ (32 * (i + 1)) := by
      rw [Nat.div_div_eq_div_mul, ← pow_add, show 32 + 32 * i = 32 * (i + 1) by ring]
    simp only [bigOfNat, ih, hdiv, List.range_succ_eq_map, List.map_cons, List.map_map]
    simp [Function.comp_def]

/-- A window does not look at the surroundings of SU-CORE. -/
theorem window_surroundings (s : State) (v : Window) (xs : List Input) (rs : List Response) :
    ({ s with inputs := xs, responses := rs } : State).window v = s.window v := by
  cases v <;> rfl

/-- From `s` to `t` the limbs `js` of window `w` took the words `d` gives them, and nothing else changed but the
surroundings of SU-CORE. -/
structure LimbsWritten (w : Window) (d : Nat → Word) (js : List Nat) (s t : State) : Prop where
  limb : ∀ j : Nat, (t.window w)[j]? = if j ∈ js then some (d j) else (s.window w)[j]?
  length : (t.window w).length = (s.window w).length
  others : ∀ v, v ≠ w → t.window v = s.window v
  limbs : t.limbs = s.limbs
  rstN : t.rstN = s.rstN
  busy : t.busy = s.busy
  err : t.err = s.err

theorem LimbsWritten.nil (w : Window) (d : Nat → Word) (s : State) : LimbsWritten w d [] s s :=
  ⟨by simp, rfl, fun _ _ => rfl, rfl, rfl, rfl, rfl⟩

theorem LimbsWritten.cons {w : Window} {d : Nat → Word} {i : Nat} {js : List Nat} {s t u : State}
    (hi : LimbsWritten w d [i] s u) (hjs : LimbsWritten w d js u t) : LimbsWritten w d (i :: js) s t where
  limb j := by
    rw [hjs.limb, hi.limb]
    by_cases hj : j ∈ js <;> simp [hj]
  length := hjs.length.trans hi.length
  others v hv := (hjs.others v hv).trans (hi.others v hv)
  limbs := hjs.limbs.trans hi.limbs
  rstN := hjs.rstN.trans hi.rstN
  busy := hjs.busy.trans hi.busy
  err := hjs.err.trans hi.err

/-- Setting one limb of a window. -/
theorem limbsWritten_setWindow {w : Window} {i : Nat} {s : State} (hi : i < (s.window w).length) (d : Nat → Word)
    (xs : List Input) (rs : List Response) :
    LimbsWritten w d [i] s { s.setWindow w ((s.window w).set i (d i)) with inputs := xs, responses := rs } where
  limb j := by
    rw [window_surroundings, setWindow_window, if_pos rfl, List.getElem?_set]
    by_cases hj : j = i
    · simp [hj, hi]
    · simp [hj, Ne.symm hj]
  length := by simp [window_surroundings, setWindow_window]
  others v hv := by rw [window_surroundings, setWindow_window, if_neg hv]
  limbs := by cases w <;> rfl
  rstN := by cases w <;> rfl
  busy := by cases w <;> rfl
  err := by cases w <;> rfl

/-- The host's writes to limbs of one window, with nothing pending: each is performed at once. -/
theorem run_window_writes {w : Window} {d : Nat → Word} {rest : List Input} (js : List Nat) {s : State}
    (hlen : (s.window w).length = s.limbs) (hn : s.limbs ≤ 128) (hr : s.rstN = true) (hb : s.busy = false)
    (hjs : ∀ j ∈ js, j < s.limbs)
    (hin : s.inputs = (js.map fun j => writeWord (w.base + 4 * j) (d j)) ++ rest) :
    ∃ t, Host.Core.run Sys2Proof.core js.length s = .next t ∧ t.inputs = rest ∧ LimbsWritten w d js s t := by
  induction js generalizing s with
  | nil => exact ⟨s, rfl, hin, .nil w d s⟩
  | cons i js ih =>
    have hi : i < s.limbs := hjs i (.head _)
    have hwrite := (busWrite_window hn hi w (d i)).trans (if_neg (by simp [hb]))
    have hstep := step_transaction_of_idle hr hb (.inr ⟨hin, hwrite⟩)
    have hw := limbsWritten_setWindow (hlen ▸ hi) d ((js.map fun j => writeWord (w.base + 4 * j) (d j)) ++ rest)
      (s.responses ++ [.ok])
    obtain ⟨t, ht, htin, hws⟩ := ih ((hw.length.trans hlen).trans hw.limbs.symm) (hw.limbs.trans_le hn)
      (hw.rstN.trans hr) (hw.busy.trans hb) (fun j hj => hw.limbs.symm ▸ hjs j (.tail _ hj)) rfl
    exact ⟨t, (run_succ hstep).trans ht, htin, hw.cons hws⟩

/-- A register all of whose limbs have been written from a value holds the limbs of that value. -/
theorem LimbsWritten.window_eq_bigOfNat {w : Window} {n v : Nat} {s t : State} (hlen : (s.window w).length = n)
    (h : LimbsWritten w (fun i => BitVec.ofNat 32 (v / 2 ^ (32 * i))) (List.range n) s t) :
    t.window w = bigOfNat n v := by
  rw [bigOfNat_eq_map]
  refine List.ext_getElem? fun j => (h.limb j).trans ?_
  by_cases hj : j < n
  · simp [hj]
  · simp [hj, hlen]

/-- Settles O45: the writes of WR reach every limb of the register once. -/
theorem hostWriteLoadsRegister : Obligations.HostWriteLoadsRegister := by
  intro s r v rest hs hn hr hb hv hin
  have hlen : (s.window (.gpr r)).length = s.limbs := hs.regs r
  obtain ⟨t, ht, htin, hw⟩ := run_window_writes (List.range s.limbs) hlen hn hr hb (fun _ => List.mem_range.mp) hin
  rw [List.length_range] at ht
  have hreg : t.reg r = bigOfNat s.limbs v := hw.window_eq_bigOfNat hlen
  have hval : t.regVal r = v := (congrArg bigVal hreg).trans (bigVal_bigOfNat hv)
  exact ⟨t, ht, hval, htin, fun j hj => hw.others (.gpr j) (by simpa using hj), hw.others .mod nofun,
    hw.others .ca nofun, hw.err, hw.busy.trans hb⟩

/-! ## The host operation RD -/

/-- The host's reads of limbs of one window, with nothing pending: each is answered at once. -/
theorem run_window_reads {w : Window} {rest : List Input} (js : List Nat) {s : State} (hn : s.limbs ≤ 128)
    (hr : s.rstN = true) (hb : s.busy = false) (hjs : ∀ j ∈ js, j < s.limbs)
    (hin : s.inputs = (js.map fun j => readWord (w.base + 4 * j)) ++ rest) :
    Host.Core.run Sys2Proof.core js.length s = .next { s with
      inputs := rest, responses := s.responses ++ (js.map fun j => (s.window w).getD j 0#32).map .data } := by
  induction js generalizing s with
  | nil => simp [run_zero, ← show s.inputs = rest from hin]
  | cons i js ih =>
    have hread := (busRead_window hn (hjs i (.head _)) w).trans (if_neg (by simp [hb]))
    have hstep := step_transaction_of_idle (d := 0#32) hr hb (.inl ⟨hin, hread⟩)
    have hrest := ih (s := { s with
      inputs := (js.map fun j => readWord (w.base + 4 * j)) ++ rest
      responses := s.responses ++ [.data ((s.window w).getD i 0#32)] }) hn hr hb (fun j hj => hjs j (.tail _ hj)) rfl
    refine (run_succ hstep).trans (hrest.trans ?_)
    simp [window_surroundings]

/-- Reading every limb in turn gives the whole register. -/
theorem map_getD_range (b : Big) : (List.range b.length).map (fun i => b.getD i 0#32) = b :=
  List.ext_getElem (by simp) fun i _ hi => by simp [hi]

/-- The value of answers that all bring data is the value of the words they bring. -/
theorem hostRDValue_map_data (b : Big) : hostRDValue (b.map .data) = bigVal b := by
  simp [hostRDValue, List.filterMap_map, Response.data?, Function.comp_def]

/-- Settles O59: the words read are the limbs of the register. -/
theorem hostReadGivesRegister : Obligations.HostReadGivesRegister := by
  intro s r rest hs hn hr hb hin
  have hrun := run_window_reads (w := .gpr r) (List.range s.limbs) hn hr hb (fun _ => List.mem_range.mp) hin
  have hreg : (List.range s.limbs).map (fun j => (s.window (.gpr r)).getD j 0#32) = s.reg r :=
    hs.regs r ▸ map_getD_range (s.reg r)
  rw [List.length_range, hreg] at hrun
  exact ⟨_, hrun, (List.length_map _).trans (hs.regs r), hostRDValue_map_data (s.reg r)⟩

/-! ## The host operation WAIT -/

/-- With an input ready beside the engine's move, the next delay is drawn. -/
theorem drawn_of_engineMoves {s : State} (hm : s.engineMoves) (hh : s.hostReady = true) : s.drawn = s.redraw := by
  obtain ⟨hb, hr, hdelay⟩ := hm
  simp [State.drawn, State.engineReady, hb, hr, hh, hdelay hh]

/-- A poll with a command pending and the delay over comes after the engine step, so it reads BUSY = 0. -/
theorem hostPoll_after_engine {s : State} (hr : s.rstN = true) (hb : s.busy = true) (hd : s.delay = 0) :
    ∃ u, engineStep { s with inputs := readWord 0x000C :: s.inputs }.redraw = .next u ∧ u.busy = false ∧
      hostPoll s = .next { u with inputs := s.inputs, responses := s.responses ++ [.data u.statusWord] } := by
  have hm : ({ s with inputs := readWord 0x000C :: s.inputs } : State).engineMoves := ⟨hb, hr, fun _ => hd⟩
  obtain ⟨u, hu, hc, hctx⟩ := engineStep_completes ({ s with inputs := readWord 0x000C :: s.inputs } : State).redraw
  have hengine : step { s with inputs := readWord 0x000C :: s.inputs } = .next u := by
    rw [step_of_engineMoves hm, drawn_of_engineMoves hm (poll_hostReady s), hu]
  have hresponses : u.responses = s.responses := hctx.responses
  obtain ⟨-, -, -, hstatus, -⟩ := target_control u.limbs
  have hpoll := step_transaction_of_idle (d := 0#32) (hctx.rstN.trans hr) hc.busy
    (.inl ⟨hctx.inputs, busRead_of_target hstatus⟩)
  rw [hresponses] at hpoll
  refine ⟨u, hu, hc.busy, ?_⟩
  simp only [hostPoll, hengine, if_pos hresponses]
  exact hpoll

/-- A poll that reads BUSY = 0 is the last one. -/
theorem hostPolls_of_over {s t : State} {k : Nat} (h : hostPoll s = .next t) (ht : waitOver t.responses = true) :
    hostPolls (k + 1) s = .next t := by
  simp [hostPolls, h, ht]

/-- A poll that reads BUSY = 1 is repeated. -/
theorem hostPolls_of_not_over {s t : State} {k : Nat} (h : hostPoll s = .next t) (ht : waitOver t.responses = false) :
    hostPolls (k + 1) s = hostPolls k t := by
  simp [hostPolls, h, ht]

section
variable {s : State}

theorem hostWAIT_idle (hr : s.rstN = true) (hb : s.busy = false) :
    hostWAIT s = .next { s with responses := s.responses ++ [.data s.statusWord] } :=
  hostPolls_of_over (hostPoll_idle hr hb) (by simp [hb])

theorem hostWAIT_after_engine (hr : s.rstN = true) (hb : s.busy = true) (hd : s.delay = 0) :
    ∃ u, engineStep { s with inputs := readWord 0x000C :: s.inputs }.redraw = .next u ∧ u.busy = false ∧
      hostWAIT s = .next { u with inputs := s.inputs, responses := s.responses ++ [.data u.statusWord] } := by
  obtain ⟨u, hu, hub, hpoll⟩ := hostPoll_after_engine hr hb hd
  exact ⟨u, hu, hub, hostPolls_of_over hpoll (by simp [hub])⟩

theorem hostWAIT_before_engine {d : Nat} (hr : s.rstN = true) (hb : s.busy = true) (hd : s.delay = d + 1) :
    hostWAIT s = hostWAIT { s with responses := s.responses ++ [.data s.statusWord], delay := d } := by
  have hpoll := hostPoll_before_engine hr hb (by simp [hd])
  simp only [hd, Nat.add_sub_cancel] at hpoll
  rw [hostWAIT, hd]
  exact hostPolls_of_not_over hpoll (by simp [hb])

end

/-- WAIT has ended in `t`: every poll but the last read BUSY = 1, as many as the delay says, and the last read BUSY = 0. -/
def WaitEnds (s t : State) : Prop :=
  ∃ polls last, hostWAIT s = .next t ∧ t.busy = false ∧ t.inputs = s.inputs ∧
    t.responses = s.responses ++ polls ++ [.data last] ∧ last[0] = false ∧
    polls.length = (if s.busy then s.delay else 0) ∧ ∀ a ∈ polls, ∃ w, a = .data w ∧ w[0] = true

/-- WAIT ends, by induction on the delay: every poll before the engine step counts it down (70_reset_and_hazards R204). -/
theorem exists_waitEnds (s : State) (hr : s.rstN = true) : ∃ t, WaitEnds s t := by
  cases hb : s.busy with
  | false => exact ⟨_, [], s.statusWord, hostWAIT_idle hr hb, hb, rfl, by simp, by simp [hb], by simp [hb], by simp⟩
  | true =>
    induction hd : s.delay generalizing s with
    | zero =>
      obtain ⟨u, -, hub, hwait⟩ := hostWAIT_after_engine hr hb hd
      exact ⟨_, [], u.statusWord, hwait, hub, rfl, by simp, by simp [hub], by simp [hd], by simp⟩
    | succ d ih =>
      obtain ⟨t, polls, last, hwait, htb, hinputs, hresponses, hlast, hlength, hpolls⟩ :=
        ih { s with responses := s.responses ++ [.data s.statusWord], delay := d } hr hb rfl
      refine ⟨t, .data s.statusWord :: polls, last, (hostWAIT_before_engine hr hb hd).trans hwait, htb, hinputs,
        by simp [hresponses], hlast, by simpa [hb, hd] using hlength, ?_⟩
      exact List.forall_mem_cons.mpr ⟨⟨_, rfl, by simp [hb]⟩, hpolls⟩

/-- Settles O60: what one poll does, case by case, and the induction on the delay. -/
theorem waitPollsUntilNotBusy : Obligations.WaitPollsUntilNotBusy := fun s hr =>
  ⟨exists_waitEnds s hr, hostWAIT_idle hr,
    fun hb hd =>
      have ⟨u, hu, _, hwait⟩ := hostWAIT_after_engine hr hb hd
      ⟨u, hu, hwait⟩,
    fun _ hb hd => hostWAIT_before_engine hr hb hd⟩

end Sys2Proof.Machine
end

section
namespace Sys2Proof

/-! ## Words with one destination twice -/

/-- The word of a command decodes to what the last check says of the command, well formed or not (30_encoding R88). -/
theorem decode_encode (i : Instr) : decode (encode i) = requireWellFormed (.ok i) := by
  simp [encode, decode_assemble]

/-- A MULW word with `rd = rx` is illegal (30_encoding R91). -/
theorem decode_encode_mulw_same (rd rs1 rs2 : RegIdx) :
    decode (encode (.mulw rd rd rs1 rs2)) = .error .sameDestinations := by
  simp [decode_encode, requireWellFormed, Instr.wf]

/-- A DIVREM word with `rd = rx` is illegal (30_encoding R91). -/
theorem decode_encode_divrem_same (rd rs1 rs2 : RegIdx) :
    decode (encode (.divrem rd rd rs1 rs2)) = .error .sameDestinations := by
  simp [decode_encode, requireWellFormed, Instr.wf]

end Sys2Proof
end

section
namespace Sys2Proof.Machine

open Sys2Proof

/-! ## How each integer command ends, case by case -/

section
variable {rd rx rs1 rs2 : RegIdx} {s : State}

/-- A sum below 2^W is written. -/
theorem exec_add_of_lt (h : s.regVal rs1 + s.regVal rs2 < 2 ^ (32 * s.limbs)) :
    exec (.add rd rs1 rs2) s = succeed [(rd, s.regVal rs1 + s.regVal rs2)] s :=
  if_neg h.not_ge

/-- A sum from 2^W on is OVERFLOW. -/
theorem exec_add_of_ge (h : 2 ^ (32 * s.limbs) ≤ s.regVal rs1 + s.regVal rs2) :
    exec (.add rd rs1 rs2) s = fail .overflow s :=
  if_pos h

/-- A difference that is not negative is written. -/
theorem exec_sub_of_ge (h : s.regVal rs2 ≤ s.regVal rs1) :
    exec (.sub rd rs1 rs2) s = succeed [(rd, s.regVal rs1 - s.regVal rs2)] s :=
  if_neg h.not_gt

/-- A negative difference is UNDERFLOW. -/
theorem exec_sub_of_lt (h : s.regVal rs1 < s.regVal rs2) : exec (.sub rd rs1 rs2) s = fail .underflow s :=
  if_pos h

/-- A product below 2^W is written. -/
theorem exec_mul_of_lt (h : s.regVal rs1 * s.regVal rs2 < 2 ^ (32 * s.limbs)) :
    exec (.mul rd rs1 rs2) s = succeed [(rd, s.regVal rs1 * s.regVal rs2)] s :=
  if_neg h.not_ge

/-- A product from 2^W on is OVERFLOW. -/
theorem exec_mul_of_ge (h : 2 ^ (32 * s.limbs) ≤ s.regVal rs1 * s.regVal rs2) :
    exec (.mul rd rs1 rs2) s = fail .overflow s :=
  if_pos h

/-- Both halves of the product are written. -/
theorem exec_mulw_of_ne (hne : rd ≠ rx) :
    exec (.mulw rd rx rs1 rs2) s =
      succeed [(rd, s.regVal rs1 * s.regVal rs2 % 2 ^ (32 * s.limbs)),
        (rx, s.regVal rs1 * s.regVal rs2 / 2 ^ (32 * s.limbs))] s :=
  if_neg hne

/-- Division by 0 is DIVZERO. -/
theorem exec_divrem_of_zero (hne : rd ≠ rx) (hb : s.regVal rs2 = 0) :
    exec (.divrem rd rx rs1 rs2) s = fail .divzero s :=
  (if_neg hne).trans (if_pos hb)

/-- Quotient and remainder are written. -/
theorem exec_divrem_of_ne_zero (hne : rd ≠ rx) (hb : s.regVal rs2 ≠ 0) :
    exec (.divrem rd rx rs1 rs2) s =
      succeed [(rd, s.regVal rs1 / s.regVal rs2), (rx, s.regVal rs1 % s.regVal rs2)] s :=
  (if_neg hne).trans (if_neg hb)

end

/-! ## The results of the integer commands -/

/-- Settles O7, by whether the sum is below 2^W. -/
theorem addWritesSumOrOverflows : Obligations.AddWritesSumOrOverflows := fun rd rs1 rs2 s =>
  ⟨decodeOfEncodeIsTheCommand (.add rd rs1 rs2) rfl,
    fun h => exec_add_of_lt (rd := rd) h ▸ succeed_one h,
    fun h => exec_add_of_ge (rd := rd) h ▸ fail_spec .overflow s⟩

/-- Settles O8, by whether `b ≤ a`: a difference is at most `a`, so it fits. -/
theorem subWritesDifferenceOrUnderflows : Obligations.SubWritesDifferenceOrUnderflows := by
  intro rd rs1 rs2 s hs
  refine ⟨decodeOfEncodeIsTheCommand (.sub rd rs1 rs2) rfl, fun h => ?_, fun h => ?_⟩
  · obtain ⟨t, ht, hval, hsucc⟩ := succeed_one (i := rd) ((Nat.sub_le _ (s.regVal rs2)).trans_lt (hs.regVal_lt rs1))
    exact ⟨t, (exec_sub_of_ge h).trans ht, by rw [hval, Nat.sub_add_cancel h], hsucc⟩
  · exact exec_sub_of_lt (rd := rd) h ▸ fail_spec .underflow s

/-- Settles O9, by whether the product is below 2^W. -/
theorem mulWritesProductOrOverflows : Obligations.MulWritesProductOrOverflows := fun rd rs1 rs2 s =>
  ⟨decodeOfEncodeIsTheCommand (.mul rd rs1 rs2) rfl,
    fun h => exec_mul_of_lt (rd := rd) h ▸ succeed_one h,
    fun h => exec_mul_of_ge (rd := rd) h ▸ fail_spec .overflow s⟩

/-- Settles O10: both operands are below 2^W, so the high half of their product is too. -/
theorem mulwWritesBothHalves : Obligations.MulwWritesBothHalves := by
  intro rd rx rs1 rs2 s hs
  refine ⟨fun hne => ⟨decodeOfEncodeIsTheCommand (.mulw rd rx rs1 rs2) (bne_iff_ne.mpr hne), ?_⟩, ?_⟩
  · have hlow : s.regVal rs1 * s.regVal rs2 % 2 ^ (32 * s.limbs) < 2 ^ (32 * s.limbs) := Nat.mod_lt _ s.bound_pos
    have hhigh : s.regVal rs1 * s.regVal rs2 / 2 ^ (32 * s.limbs) < 2 ^ (32 * s.limbs) :=
      Nat.div_lt_of_lt_mul (Nat.mul_lt_mul'' (hs.regVal_lt rs1) (hs.regVal_lt rs2))
    exact exec_mulw_of_ne hne ▸ succeed_two hne hlow hhigh
  · rintro rfl
    exact decode_encode_mulw_same rd rs1 rs2

/-- Settles O11: the quotient is at most the dividend and the remainder is below the divisor, so both fit. -/
theorem divremWritesQuotientAndRemainder : Obligations.DivremWritesQuotientAndRemainder := by
  intro rd rx rs1 rs2 s hs
  refine ⟨fun hne => decodeOfEncodeIsTheCommand (.divrem rd rx rs1 rs2) (bne_iff_ne.mpr hne), fun hne hb => ?_,
    fun hne hb => exec_divrem_of_zero (rs1 := rs1) hne hb ▸ fail_spec .divzero s, ?_⟩
  · have hquot : s.regVal rs1 / s.regVal rs2 < 2 ^ (32 * s.limbs) :=
      (Nat.div_le_self _ _).trans_lt (hs.regVal_lt rs1)
    have hrem : s.regVal rs1 % s.regVal rs2 < 2 ^ (32 * s.limbs) :=
      (Nat.mod_lt _ (Nat.pos_of_ne_zero hb)).trans (hs.regVal_lt rs2)
    exact exec_divrem_of_ne_zero hne hb ▸ succeed_two hne hquot hrem
  · rintro rfl
    exact decode_encode_divrem_same rd rs1 rs2

/-! ## The laws of the integer commands -/

/-- SUB of `b` from a sum `a + b` gives `a` back (40_integer R108). -/
theorem exec_sub_of_sum {re rd rs2 : RegIdx} {t : State} {a : Nat} (hsum : t.regVal rd = a + t.regVal rs2)
    (ha : a < 2 ^ (32 * t.limbs)) :
    ∃ u, exec (.sub re rd rs2) t = .next u ∧ u.regVal re = a ∧ Succeeds [re] t u := by
  rw [exec_sub_of_ge (hsum ▸ Nat.le_add_left ..), hsum, Nat.add_sub_cancel]
  exact succeed_one ha

/-- A command that succeeds leaves the value of every register outside its destinations as it was. -/
theorem Succeeds.regVal_eq {dst : List RegIdx} {s t : State} (h : Succeeds dst s t) {j : RegIdx} (hj : j ∉ dst) :
    t.regVal j = s.regVal j :=
  congrArg bigVal (h.others j hj)

/-- Settles O12, each law from the results of its commands: division with remainder for DIVREM and for the halves of MULW,
and a high half that is 0 exactly when the product is below 2^W for MUL. -/
theorem integerLaws : Obligations.IntegerLaws := by
  intro s hs
  refine ⟨fun rd rx rs1 rs2 hne hb => ?_, fun rd rs1 rs2 re hne hsum => ?_, fun rd rx rs1 rs2 hne => ?_,
    fun rd rx rs1 rs2 hne => ?_⟩
  · obtain ⟨-, hdiv, -, -⟩ := divremWritesQuotientAndRemainder rd rx rs1 rs2 s hs
    obtain ⟨t, ht, hquot, hrem, -⟩ := hdiv hne hb
    exact ⟨t, ht, by rw [hquot, hrem, Nat.div_add_mod'], hrem ▸ Nat.mod_lt _ (Nat.pos_of_ne_zero hb)⟩
  · obtain ⟨-, hadd, -⟩ := addWritesSumOrOverflows rd rs1 rs2 s
    obtain ⟨t, ht, hval, hsucc⟩ := hadd hsum
    have hb : t.regVal rs2 = s.regVal rs2 := hsucc.regVal_eq (by simpa using hne.symm)
    obtain ⟨u, hu, hdiff, hsucc'⟩ := exec_sub_of_sum (re := re) (hb ▸ hval) (hsucc.context.limbs ▸ hs.regVal_lt rs1)
    exact ⟨t, u, ht, hu, hsucc', hdiff⟩
  · obtain ⟨hmulw, -⟩ := mulwWritesBothHalves rd rx rs1 rs2 s hs
    obtain ⟨-, t, ht, hlow, hhigh, -⟩ := hmulw hne
    exact ⟨t, ht, by rw [hlow, hhigh, Nat.div_add_mod']⟩
  · obtain ⟨hmulw, -⟩ := mulwWritesBothHalves rd rx rs1 rs2 s hs
    obtain ⟨-, t, ht, hlow, hhigh, -⟩ := hmulw hne
    obtain ⟨-, hfits, hoverflows⟩ := mulWritesProductOrOverflows rd rs1 rs2 s
    obtain hlt | hge := Nat.lt_or_ge (s.regVal rs1 * s.regVal rs2) (2 ^ (32 * s.limbs))
    · obtain ⟨u, hu, hval, hsucc⟩ := hfits hlt
      exact ⟨t, u, ht, hu, fun _ => ⟨hsucc, by rw [hval, hlow, Nat.mod_eq_of_lt hlt]⟩,
        fun h => absurd (hhigh.trans (Nat.div_eq_of_lt hlt)) h⟩
    · obtain ⟨u, hu, hfail⟩ := hoverflows hge
      exact ⟨t, u, ht, hu, fun h => absurd (hhigh.symm.trans h) (Nat.div_pos hge s.bound_pos).ne', fun _ => hfail⟩

end Sys2Proof.Machine
end

section
namespace Sys2Proof.Machine

open Sys2Proof

/-! ## Two runs of one command -/

/-- The answers `o` from `s` and `o'` from `s'` end their commands alike: with the same values for the registers `dst`, or
with the same error. -/
def EndsAlike (s s' : State) (dst : List RegIdx) (o o' : Host.Outcome State Fault Refusal) : Prop :=
  (∃ ws, ws.map Prod.fst = dst ∧ o = succeed ws s ∧ o' = succeed ws s') ∨ ∃ c, o = fail c s ∧ o' = fail c s'

section
variable {s s' : State} {dst : List RegIdx}

theorem endsAlike_succeed {ws : List (RegIdx × Nat)} (hdst : ws.map Prod.fst = dst) :
    EndsAlike s s' dst (succeed ws s) (succeed ws s') :=
  .inl ⟨ws, hdst, rfl, rfl⟩

theorem endsAlike_fail (c : ErrCode) : EndsAlike s s' dst (fail c s) (fail c s') := .inr ⟨c, rfl, rfl⟩

theorem endsAlike_finishPoint (rd : RegIdx) (r : Option Point) :
    EndsAlike s s' [rd, pairHigh rd] (finishPoint rd r s) (finishPoint rd r s') := by
  cases r with
  | none => exact endsAlike_fail _
  | some p => exact endsAlike_succeed rfl

/-- Two runs that make the same check end alike if they do so on both sides of the check. -/
theorem endsAlike_ite {p : Prop} [Decidable p] {o o' q q' : Host.Outcome State Fault Refusal}
    (h : EndsAlike s s' dst o o') (h' : EndsAlike s s' dst q q') :
    EndsAlike s s' dst (if p then o else q) (if p then o' else q') := by
  split
  · exact h
  · exact h'

/-- Two states that agree on the coordinates of a pair hold one point there. -/
theorem State.point_congr {i : RegIdx} (hx : s.regVal i = s'.regVal i)
    (hy : s.regVal (pairHigh i) = s'.regVal (pairHigh i)) : s.point i = s'.point i := by
  rw [State.point, State.point, hx, hy]

/-- Two states of one size hold the same limbs in a register after the same writes, if these name it or it held the same
limbs before. -/
theorem writeRegs_reg_congr (ws : List (RegIdx × Nat)) (hlimbs : s.limbs = s'.limbs) {d : RegIdx}
    (hd : d ∈ ws.map Prod.fst ∨ s.reg d = s'.reg d) : (s.writeRegs ws).reg d = (s'.writeRegs ws).reg d := by
  induction ws generalizing s s' with
  | nil => exact hd.resolve_left List.not_mem_nil
  | cons w ws ih =>
    refine ih (s := s.writeReg w.1 w.2) (s' := s'.writeReg w.1 w.2) hlimbs ?_
    rw [List.map_cons, List.mem_cons] at hd
    rw [State.writeReg_reg, State.writeReg_reg, hlimbs]
    obtain (rfl | hmem) | hreg := hd
    · simp
    · exact .inl hmem
    · simp [hreg]

/-- Runs that end alike from states of one size have one outcome, as O30 says it. -/
theorem EndsAlike.outcome {o o' : Host.Outcome State Fault Refusal} (h : EndsAlike s s' dst o o')
    (hlimbs : s.limbs = s'.limbs) :
    ∃ t t', o = .next t ∧ o' = .next t' ∧
      ((Succeeds dst s t ∧ Succeeds dst s' t' ∧ ∀ d ∈ dst, t.reg d = t'.reg d) ∨
        ∃ c, FailsWith c s t ∧ FailsWith c s' t') := by
  obtain ⟨ws, rfl, rfl, rfl⟩ | ⟨c, rfl, rfl⟩ := h
  · obtain ⟨t, ht, hs⟩ := succeed_frame ws s
    obtain ⟨t', ht', hs'⟩ := succeed_frame ws s'
    refine ⟨t, t', ht, ht', .inl ⟨hs, hs', fun d hd => ?_⟩⟩
    cases ht
    cases ht'
    exact writeRegs_reg_congr ws hlimbs (.inl hd)
  · obtain ⟨t, ht, hf⟩ := fail_spec c s
    obtain ⟨t', ht', hf'⟩ := fail_spec c s'
    exact ⟨t, t', ht, ht', .inr ⟨c, hf, hf'⟩⟩

end

/-- Two runs of a command from states of one size that agree on the values it reads end alike, a term that has no encoding
included: `exec` reads nothing else (60_exceptions R168). -/
theorem exec_endsAlike {i : Instr} {s s' : State} (hbound : s.bound = s'.bound)
    (hval : ∀ r ∈ i.sources, s.regVal r = s'.regVal r) (hmod : i.usesMod = true → s.modVal = s'.modVal)
    (hca : i.usesCa = true → s.caVal = s'.caVal) : EndsAlike s s' i.dests (exec i s) (exec i s') := by
  cases i with
  | add | sub | mul | mulw =>
    simp only [Instr.sources, List.forall_mem_cons] at hval
    obtain ⟨ha, hb, -⟩ := hval
    simp only [exec, execAdd, execSub, execMul, execMulw, hbound, ha, hb]
    exact endsAlike_ite (endsAlike_fail _) (endsAlike_succeed rfl)
  | divrem =>
    simp only [Instr.sources, List.forall_mem_cons] at hval
    obtain ⟨ha, hb, -⟩ := hval
    simp only [exec, execDivrem, ha, hb]
    exact endsAlike_ite (endsAlike_fail _) (endsAlike_ite (endsAlike_fail _) (endsAlike_succeed rfl))
  | radd | rsub | rmul =>
    simp only [Instr.sources, List.forall_mem_cons] at hval
    obtain ⟨ha, hb, -⟩ := hval
    simp only [exec, execRadd, execRsub, execRmul, hmod rfl, ha, hb]
    exact endsAlike_ite (endsAlike_fail _) (endsAlike_succeed rfl)
  | rinv rd rs1 =>
    simp only [exec, execRinv, hmod rfl, hval rs1 (.head _)]
    refine endsAlike_ite (endsAlike_fail _) ?_
    split
    · exact endsAlike_fail _
    · exact endsAlike_succeed rfl
  | padd =>
    simp only [Instr.sources, List.forall_mem_cons] at hval
    obtain ⟨hpx, hpy, hqx, hqy, -⟩ := hval
    simp only [exec, execPadd, hmod rfl, hca rfl, State.point_congr hpx hpy, State.point_congr hqx hqy]
    exact endsAlike_ite (endsAlike_fail _) (endsAlike_ite (endsAlike_fail _) (endsAlike_finishPoint _ _))
  | pdbl =>
    simp only [Instr.sources, List.forall_mem_cons] at hval
    obtain ⟨hpx, hpy, -⟩ := hval
    simp only [exec, execPdbl, hmod rfl, hca rfl, State.point_congr hpx hpy]
    exact endsAlike_ite (endsAlike_fail _) (endsAlike_ite (endsAlike_fail _) (endsAlike_finishPoint _ _))
  | pmul =>
    simp only [Instr.sources, List.forall_mem_cons] at hval
    obtain ⟨hpx, hpy, hk, -⟩ := hval
    simp only [exec, execPmul, hmod rfl, hca rfl, State.point_congr hpx hpy, hk]
    exact endsAlike_ite (endsAlike_fail _) (endsAlike_ite (endsAlike_fail _) (endsAlike_finishPoint _ _))

/-- Settles O30: equal limbs have equal values, so the two runs end alike. -/
theorem outcomeDependsOnOperandsOnly : Obligations.OutcomeDependsOnOperandsOnly := by
  intro i s s' _ hlimbs hsrc hmod hca
  have hbound : s.bound = s'.bound := by rw [State.bound_eq, State.bound_eq, hlimbs]
  exact (exec_endsAlike hbound (fun r hr => congrArg bigVal (hsrc r hr)) (fun h => congrArg bigVal (hmod h))
    (fun h => congrArg bigVal (hca h))).outcome hlimbs

end Sys2Proof.Machine
end

section
namespace Sys2Proof.Machine

open Sys2Proof

/-! ## A zero modulus -/

/-- With MOD = 0 every ring and curve command that has an encoding fails with DIVZERO (41_ring R120, 42_curve R140). -/
theorem exec_of_modVal_zero {i : Instr} {s : State} (hw : i.wf = true) (hmod : i.usesMod = true) (hm : s.modVal = 0) :
    exec i s = fail .divzero s := by
  cases i with
  | add | sub | mul | mulw | divrem => cases hmod
  | radd | rsub | rmul | rinv => exact if_pos hm
  | padd | pdbl | pmul => exact (if_neg (by simp [hw])).trans (if_pos hm)

/-- Settles O29: the check of MOD is the first check that a command with an encoding can fail. -/
theorem zeroModulusRaisesDivzero : Obligations.ZeroModulusRaisesDivzero := fun _ s hw hmod hm =>
  exec_of_modVal_zero hw hmod hm ▸ fail_spec .divzero s

/-! ## The extended Euclidean loop -/

/-- The coefficient that a magnitude of the loop of 41_ring R127 stands for: the signs alternate with the rounds. -/
def signedCoeff (odd : Bool) (c : Nat) : Int := if odd then -c else c

@[simp] theorem signedCoeff_not (odd : Bool) (c : Nat) : signedCoeff (!odd) c = -signedCoeff odd c := by
  cases odd <;> simp [signedCoeff]

/-- The update of the magnitudes, on the coefficients. -/
theorem signedCoeff_add_mul (odd : Bool) (c q d : Nat) :
    signedCoeff odd (c + q * d) = signedCoeff odd c + q * signedCoeff odd d := by
  cases odd
  · simp [signedCoeff]
  · simp [signedCoeff]; ring

/-- The invariant of the loop of 41_ring R127 for `a` and modulus `m`: each remainder is `a` times its coefficient
modulo `m`, the sign of the second coefficient being the opposite of the first's. -/
structure EuclidInv (m a r0 r1 c0 c1 : Nat) (odd : Bool) : Prop where
  first  : a * signedCoeff odd c0 ≡ r0 [ZMOD m]
  second : a * signedCoeff odd c1 ≡ -r1 [ZMOD m]

theorem euclidInv_start (m a : Nat) : EuclidInv m a a m 1 0 false where
  first := by simp [signedCoeff]
  second := by simp [signedCoeff, Int.ModEq]

section
variable {m a r0 r1 c0 c1 : Nat} {odd : Bool}

/-- One round keeps the invariant. -/
theorem EuclidInv.round (h : EuclidInv m a r0 r1 c0 c1 odd) :
    EuclidInv m a r1 (r0 % r1) c1 (c0 + r0 / r1 * c1) (!odd) where
  first := by simpa using h.second.neg
  second := by
    have hrem : ((r0 % r1 : Nat) : Int) = r0 + (r0 / r1 : Nat) * -(r1 : Int) := by
      push_cast
      rw [Int.emod_def]
      ring
    rw [signedCoeff_not, signedCoeff_add_mul, mul_neg, hrem]
    have hsum := (h.first.add (h.second.mul_left (r0 / r1 : Nat))).neg
    rwa [mul_left_comm, ← mul_add] at hsum

/-- The value that the loop normalizes into [0, m) is the first coefficient modulo `m`. -/
theorem residue_modEq_signedCoeff (hm : m ≠ 0) :
    (residue (if odd then (m : Int) - c0 else c0) m : Int) ≡ signedCoeff odd c0 [ZMOD m] := by
  rw [residue_cast hm]
  refine (Int.mod_modEq _ _).trans ?_
  cases odd
  · rfl
  · simp [signedCoeff, Int.ModEq, sub_eq_add_neg]

/-- Once the second remainder is 0 the loop ends, with a value if the first one is 1. -/
theorem euclidLoop_zero_eq_some_iff (m fuel r0 c0 c1 : Nat) (odd : Bool) (x : Nat) :
    euclidLoop m (fuel + 1) r0 0 c0 c1 odd = some x ↔
      r0 = 1 ∧ residue (if odd then (m : Int) - c0 else c0) m = x := by
  rw [euclidLoop, if_pos rfl, Option.ite_none_right_eq_some, Option.some.injEq]

/-- Until then the loop goes on with one round less. -/
theorem euclidLoop_of_ne_zero {fuel : Nat} (hr1 : r1 ≠ 0) :
    euclidLoop m (fuel + 1) r0 r1 c0 c1 odd = euclidLoop m fuel r1 (r0 % r1) c1 (c0 + r0 / r1 * c1) (!odd) :=
  if_neg hr1

/-- What the loop finds is an inverse of `a` modulo `m`, in [0, m). -/
theorem EuclidInv.inverse_of_some (hm : m ≠ 0) {fuel x : Nat} (h : EuclidInv m a r0 r1 c0 c1 odd)
    (hx : euclidLoop m fuel r0 r1 c0 c1 odd = some x) : x < m ∧ a * x ≡ 1 [ZMOD m] := by
  induction fuel generalizing r0 r1 c0 c1 odd with
  | zero => cases hx
  | succ fuel ih =>
    obtain rfl | hr1 := eq_or_ne r1 0
    · obtain ⟨rfl, rfl⟩ := (euclidLoop_zero_eq_some_iff m fuel r0 c0 c1 odd x).mp hx
      exact ⟨residue_lt hm _, ((residue_modEq_signedCoeff hm).mul_left a).trans h.first⟩
    · exact ih h.round (euclidLoop_of_ne_zero hr1 ▸ hx)

/-- With enough rounds the loop finds a value exactly when the remainders are coprime. -/
theorem euclidLoop_isSome_iff {fuel : Nat} (hf : r1 < fuel) :
    (euclidLoop m fuel r0 r1 c0 c1 odd).isSome = true ↔ Nat.gcd r0 r1 = 1 := by
  induction fuel generalizing r0 r1 c0 c1 odd with
  | zero => exact absurd hf (Nat.not_lt_zero _)
  | succ fuel ih =>
    obtain rfl | hr1 := eq_or_ne r1 0
    · simp [Option.isSome_iff_exists, euclidLoop_zero_eq_some_iff]
    · have hlt : r0 % r1 < r1 := Nat.mod_lt _ (Nat.pos_of_ne_zero hr1)
      rw [euclidLoop_of_ne_zero hr1, ih (by omega), Nat.gcd_comm r1, ← Nat.gcd_rec, Nat.gcd_comm]

end

/-! ## The inverse function -/

section
variable {m a x : Nat}

/-- The inverse function finds a value exactly when `a` and `m` are coprime (41_ring R126). -/
theorem rinv_isSome_iff (m a : Nat) : (rinv m a).isSome = true ↔ Nat.gcd a m = 1 :=
  euclidLoop_isSome_iff (Nat.lt_succ_self m)

/-- The inverse function finds nothing exactly when `a` and `m` have a common factor (41_ring R126). -/
theorem rinv_eq_none_iff (m a : Nat) : rinv m a = none ↔ Nat.gcd a m ≠ 1 := by
  rw [← Option.not_isSome_iff_eq_none, Ne, rinv_isSome_iff]

/-- What the inverse function finds is an inverse, in [0, m) (41_ring R126). -/
theorem inverse_of_rinv (hm : m ≠ 0) (hx : rinv m a = some x) : x < m ∧ a * x ≡ 1 [MOD m] := by
  obtain ⟨hlt, hinv⟩ := (euclidInv_start m a).inverse_of_some hm hx
  exact ⟨hlt, Int.natCast_modEq_iff.mp (by exact_mod_cast hinv)⟩

/-- An inverse in [0, m) is the only one. -/
theorem inverse_unique (hcop : Nat.gcd a m = 1) {y : Nat} (hx : a * x ≡ 1 [MOD m]) (hxm : x < m)
    (hy : a * y ≡ 1 [MOD m]) (hym : y < m) : y = x :=
  (Nat.ModEq.cancel_left_of_coprime (Nat.gcd_comm a m ▸ hcop) (hy.trans hx.symm)).eq_of_lt_of_lt hym hxm

end

/-- Settles O16: the loop finds a value exactly for coprime arguments, its invariant makes the value an inverse, and a
coprime factor cancels. -/
theorem rinvFindsTheInverse : Obligations.RinvFindsTheInverse := by
  intro m a hm
  refine ⟨fun hcop => ?_, (rinv_eq_none_iff m a).mpr⟩
  obtain ⟨x, hx⟩ := Option.isSome_iff_exists.mp ((rinv_isSome_iff m a).mpr hcop)
  obtain ⟨hlt, hinv⟩ := inverse_of_rinv (Nat.one_le_iff_ne_zero.mp hm) hx
  exact ⟨x, hx, hlt, hinv, fun y hym hy => inverse_unique hcop hinv hlt hy hym⟩

/-! ## How each ring command ends, case by case -/

section
variable {rd rs1 rs2 : RegIdx} {s : State}

/-- The residue of the sum is written. -/
theorem exec_radd_of_ne_zero (hm : s.modVal ≠ 0) :
    exec (.radd rd rs1 rs2) s = succeed [(rd, (s.regVal rs1 + s.regVal rs2) % s.modVal)] s := by
  rw [← residue_natCast, Nat.cast_add]
  exact if_neg hm

/-- The residue of the integer difference is written. -/
theorem exec_rsub_of_ne_zero (hm : s.modVal ≠ 0) :
    exec (.rsub rd rs1 rs2) s = succeed [(rd, residue ((s.regVal rs1 : Int) - s.regVal rs2) s.modVal)] s :=
  if_neg hm

/-- The residue of the product is written. -/
theorem exec_rmul_of_ne_zero (hm : s.modVal ≠ 0) :
    exec (.rmul rd rs1 rs2) s = succeed [(rd, s.regVal rs1 * s.regVal rs2 % s.modVal)] s := by
  rw [← residue_natCast, Nat.cast_mul]
  exact if_neg hm

/-- The inverse is written. -/
theorem exec_rinv_of_some (hm : s.modVal ≠ 0) {x : Nat} (hx : rinv s.modVal (s.regVal rs1) = some x) :
    exec (.rinv rd rs1) s = succeed [(rd, x)] s := by
  simp [exec, execRinv, hm, hx]

/-- No inverse is NOINV. -/
theorem exec_rinv_of_none (hm : s.modVal ≠ 0) (hx : rinv s.modVal (s.regVal rs1) = none) :
    exec (.rinv rd rs1) s = fail .noinv s := by
  simp [exec, execRinv, hm, hx]

/-- Completing with one result that is a residue modulo MOD: MOD fits a register, so the result does. -/
theorem Shaped.succeed_of_lt_modVal (hs : Shaped s) {v : Nat} (hv : v < s.modVal) :
    ∃ t, succeed [(rd, v)] s = .next t ∧ t.regVal rd = v ∧ Succeeds [rd] s t :=
  succeed_one (hv.trans hs.modVal_lt)

end

/-! ## The results of the ring commands -/

/-- The residue of a difference of reduced operands, by the two formulas of the source (41_ring R123). -/
theorem residue_sub_of_lt {a b m : Nat} (ha : a < m) (hb : b < m) :
    residue ((a : Int) - b) m = if a < b then m - (b - a) else a - b := by
  split_ifs with hab
  · have hcast : (a : Int) - b = ((m - (b - a) : Nat) : Int) - m := by omega
    rw [hcast, residue, Int.sub_emod_right]
    exact (residue_natCast _ m).trans (Nat.mod_eq_of_lt (by omega))
  · have hcast : (a : Int) - b = ((a - b : Nat) : Int) := by omega
    rw [hcast, residue_natCast, Nat.mod_eq_of_lt (by omega)]

/-- Settles O13, by whether MOD is 0. -/
theorem raddWritesResidue : Obligations.RaddWritesResidue := fun rd rs1 rs2 s hs =>
  ⟨decodeOfEncodeIsTheCommand (.radd rd rs1 rs2) rfl,
    fun hm => exec_radd_of_ne_zero (rd := rd) hm ▸ hs.succeed_of_lt_modVal (Nat.mod_lt _ (Nat.pos_of_ne_zero hm)),
    zeroModulusRaisesDivzero (.radd rd rs1 rs2) s rfl rfl⟩

/-- Settles O14, by whether MOD is 0. -/
theorem rsubWritesResidue : Obligations.RsubWritesResidue := by
  intro rd rs1 rs2 s hs
  refine ⟨decodeOfEncodeIsTheCommand (.rsub rd rs1 rs2) rfl, fun hm => ?_,
    zeroModulusRaisesDivzero (.rsub rd rs1 rs2) s rfl rfl⟩
  obtain ⟨t, ht, hval, hsucc⟩ := hs.succeed_of_lt_modVal (rd := rd) (residue_lt hm (s.regVal rs1 - s.regVal rs2))
  exact ⟨t, (exec_rsub_of_ne_zero hm).trans ht, by rw [hval, residue_cast hm],
    fun ha hb => hval.trans (residue_sub_of_lt ha hb), hsucc⟩

/-- Settles O15, by whether MOD is 0. -/
theorem rmulWritesResidue : Obligations.RmulWritesResidue := fun rd rs1 rs2 s hs =>
  ⟨decodeOfEncodeIsTheCommand (.rmul rd rs1 rs2) rfl,
    fun hm => exec_rmul_of_ne_zero (rd := rd) hm ▸ hs.succeed_of_lt_modVal (Nat.mod_lt _ (Nat.pos_of_ne_zero hm)),
    zeroModulusRaisesDivzero (.rmul rd rs1 rs2) s rfl rfl⟩

/-- Settles O17, by what the inverse function finds. -/
theorem rinvWritesInverseOrNoinv : Obligations.RinvWritesInverseOrNoinv := by
  intro rd rs1 s hs
  refine ⟨decodeOfEncodeIsTheCommand (.rinv rd rs1) rfl, fun hm hcop => ?_, fun hm hcop => ?_,
    zeroModulusRaisesDivzero (.rinv rd rs1) s rfl rfl⟩
  · obtain ⟨hfinds, -⟩ := rinvFindsTheInverse s.modVal (s.regVal rs1) (Nat.one_le_iff_ne_zero.mpr hm)
    obtain ⟨x, hx, hlt, hinv, -⟩ := hfinds hcop
    obtain ⟨t, ht, rfl, hsucc⟩ := hs.succeed_of_lt_modVal (rd := rd) hlt
    exact ⟨t, (exec_rinv_of_some hm hx).trans ht, hlt, hinv, hsucc⟩
  · exact exec_rinv_of_none (rd := rd) hm ((rinv_eq_none_iff _ _).mpr hcop) ▸ fail_spec .noinv s

/-! ## The laws of the ring commands -/

/-- A command keeps the limb counts. -/
theorem Shaped.of_exec {i : Instr} {s t : State} (h : Shaped s) (ht : exec i s = .next t) : Shaped t := by
  obtain ⟨ws, hend⟩ | ⟨c, -, hend⟩ := exec_endsCommand i s <;> cases ht.symm.trans hend
  · exact (h.writeRegs ws).congr rfl (fun _ => rfl) rfl rfl
  · exact h.congr rfl (fun _ => rfl) rfl rfl

/-- A command that succeeds leaves the value of MOD as it was. -/
theorem Succeeds.modVal_eq {dst : List RegIdx} {s t : State} (h : Succeeds dst s t) : t.modVal = s.modVal :=
  congrArg bigVal h.context.mod

/-- Settles O18: adding `b` to the residue of `a - b` gives a number congruent to `a`. -/
theorem rsubThenRaddGivesResidue : Obligations.RsubThenRaddGivesResidue := by
  intro rd rs1 rs2 re s hs hm hne
  obtain ⟨-, hrsub, -⟩ := rsubWritesResidue rd rs1 rs2 s hs
  obtain ⟨t, ht, hdiff, -, hsucc⟩ := hrsub hm
  obtain ⟨-, hradd, -⟩ := raddWritesResidue re rd rs2 t (hs.of_exec ht)
  obtain ⟨u, hu, hsum, -⟩ := hradd (hsucc.modVal_eq ▸ hm)
  have hb : t.regVal rs2 = s.regVal rs2 := hsucc.regVal_eq (by simpa using hne.symm)
  refine ⟨t, u, ht, hu, Int.ofNat_inj.mp ?_⟩
  rw [hsum, hsucc.modVal_eq, hb]
  push_cast
  rw [hdiff, Int.emod_add_emod, sub_add_cancel]

/-- Settles O19: the product is 1 modulo MOD, which is 1 for MOD at least 2. -/
theorem rmulByInverseGivesOne : Obligations.RmulByInverseGivesOne := by
  intro rd rs1 re s hs hm hcop hne
  have hm0 : s.modVal ≠ 0 := by omega
  obtain ⟨-, hrinv, -⟩ := rinvWritesInverseOrNoinv rd rs1 s hs
  obtain ⟨t, ht, -, hinv, hsucc⟩ := hrinv hm0 hcop
  obtain ⟨-, hrmul, -⟩ := rmulWritesResidue re rs1 rd t (hs.of_exec ht)
  obtain ⟨u, hu, hprod, -⟩ := hrmul (hsucc.modVal_eq ▸ hm0)
  have ha : t.regVal rs1 = s.regVal rs1 := hsucc.regVal_eq (by simpa using hne.symm)
  exact ⟨t, u, ht, hu, by rw [hprod, hsucc.modVal_eq, ha, hinv, Nat.mod_eq_of_lt hm]⟩

end Sys2Proof.Machine
end

section
namespace Sys2Proof.Machine

open Sys2Proof

/-! ## Point addition as the chord and tangent construction, in the ring of integers modulo `m` -/

/-- The slope's numerator before it is reduced modulo `m` (42_curve R141). -/
def lineNum (A : Nat) (p q : Point) : Int := if p = q then 3 * p.x * p.x + A else q.y - p.y

/-- The slope's denominator before it is reduced modulo `m` (42_curve R141). -/
def lineDen (p q : Point) : Int := if p = q then 2 * p.y else q.x - p.x

/-- `r` is the reduced third point, mirrored, of the line of slope `sl` through `p` and `q`: the tangent for raw-equal
points, the chord otherwise (42_curve R141). -/
structure PointSum (m A : Nat) (p q : Point) (sl : ZMod m) (r : Point) : Prop where
  x_lt : r.x < m
  y_lt : r.y < m
  isUnit_den : IsUnit (lineDen p q : ZMod m)
  slope : sl * (lineDen p q : ZMod m) = (lineNum A p q : ZMod m)
  x_eq : (r.x : ZMod m) = sl * sl - p.x - q.x
  y_eq : (r.y : ZMod m) = sl * (p.x - r.x) - p.y

section
variable {m A : Nat} {p q r : Point}

theorem slopeNum_eq_residue (m A : Nat) (p q : Point) : slopeNum m A p q = residue (lineNum A p q) m := by
  unfold slopeNum lineNum
  split <;> rfl

theorem slopeDen_eq_residue (m : Nat) (p q : Point) : slopeDen m p q = residue (lineDen p q) m := by
  unfold slopeDen lineDen
  split <;> rfl

/-- Point addition is the third point on the line whose slope the inverse of the denominator gives. -/
theorem padd_eq_map (m A : Nat) (p q : Point) :
    padd m A p q = (rinv m (slopeDen m p q)).map fun i : Nat =>
      thirdPoint m (residue ((slopeNum m A p q : Int) * i) m) p q := by
  unfold padd
  cases rinv m (slopeDen m p q) <;> rfl

theorem gcd_residue (hm : m ≠ 0) (v : Int) : Nat.gcd (residue v m) m = Int.gcd v m := by
  rw [← Int.gcd_natCast_natCast, residue_cast hm, Int.gcd_emod]

/-- Point addition fails exactly when the denominator is not coprime to `m`. -/
theorem padd_eq_none_iff (hm : m ≠ 0) : padd m A p q = none ↔ Int.gcd (lineDen p q) m ≠ 1 := by
  rw [padd_eq_map, Option.map_eq_none_iff, rinv_eq_none_iff, slopeDen_eq_residue, gcd_residue hm]

/-- A residue modulo `m` is the number itself in the ring of integers modulo `m`. -/
theorem residue_zmod (hm : m ≠ 0) (v : Int) : (residue v m : ZMod m) = v := by
  rw [← Int.cast_natCast, residue_cast hm, ZMod.intCast_mod]

/-- With an inverse of the denominator the computed point is the one of the construction. -/
theorem pointSum_thirdPoint (hm : m ≠ 0) {i : Nat} (hi : (lineDen p q : ZMod m) * i = 1) :
    PointSum m A p q (lineNum A p q * i) (thirdPoint m (residue ((slopeNum m A p q : Int) * i) m) p q) where
  x_lt := residue_lt hm _
  y_lt := residue_lt hm _
  isUnit_den := .of_mul_eq_one _ hi
  slope := by linear_combination (lineNum A p q : ZMod m) * hi
  x_eq := by simp [thirdPoint, slopeNum_eq_residue, residue_zmod hm]
  y_eq := by simp [thirdPoint, slopeNum_eq_residue, residue_zmod hm]

/-- A point that point addition finds is the one of the construction. -/
theorem exists_pointSum_of_padd (hm : m ≠ 0) (h : padd m A p q = some r) : ∃ sl, PointSum m A p q sl r := by
  rw [padd_eq_map, Option.map_eq_some_iff] at h
  obtain ⟨i, hi, rfl⟩ := h
  obtain ⟨-, hinv⟩ := inverse_of_rinv hm hi
  rw [← ZMod.natCast_eq_natCast_iff, slopeDen_eq_residue] at hinv
  exact ⟨_, pointSum_thirdPoint hm (by simpa [residue_zmod hm] using hinv)⟩

/-- Numbers below `m` that are equal modulo `m` are equal. -/
theorem eq_of_zmod_eq {a b : Nat} (ha : a < m) (hb : b < m) (h : (a : ZMod m) = b) : a = b :=
  ((ZMod.natCast_eq_natCast_iff a b m).mp h).eq_of_lt_of_lt ha hb

/-- The denominator being invertible, there is one slope, and so one point. -/
theorem PointSum.unique {sl sl' : ZMod m} {r' : Point} (h : PointSum m A p q sl r) (h' : PointSum m A p q sl' r') :
    r = r' := by
  have hsl : sl = sl' := h.isUnit_den.mul_right_cancel (h.slope.trans h'.slope.symm)
  subst hsl
  have hx : r.x = r'.x := eq_of_zmod_eq h.x_lt h'.x_lt (h.x_eq.trans h'.x_eq.symm)
  have hy : r.y = r'.y := eq_of_zmod_eq h.y_lt h'.y_lt (by rw [h.y_eq, h'.y_eq, hx])
  cases r
  cases r'
  congr

/-- Point addition finds a point exactly when it is the one of the construction. -/
theorem padd_eq_some_iff (hm : m ≠ 0) : padd m A p q = some r ↔ ∃ sl, PointSum m A p q sl r := by
  refine ⟨exists_pointSum_of_padd hm, fun ⟨sl, h⟩ => ?_⟩
  have hcop : Int.gcd (lineDen p q) m = 1 := by
    rw [Int.gcd_comm, ← Int.isCoprime_iff_gcd_eq_one, ← ZMod.coe_int_isUnit_iff_isCoprime]
    exact h.isUnit_den
  obtain ⟨r', hr'⟩ := Option.ne_none_iff_exists'.mp fun hnone => (padd_eq_none_iff (A := A) hm).mp hnone hcop
  obtain ⟨sl', h'⟩ := exists_pointSum_of_padd hm hr'
  rw [hr', h.unique h']

/-- The line of a sum goes through both points. -/
theorem PointSum.chord {sl : ZMod m} (h : PointSum m A p q sl r) : sl * (q.x - p.x) = q.y - p.y := by
  obtain rfl | hne := eq_or_ne p q
  · simp
  · simpa [lineNum, lineDen, hne] using h.slope

/-- The line of a double is the tangent. -/
theorem PointSum.tangent {sl : ZMod m} (h : PointSum m A p p sl r) : sl * (2 * p.y) = 3 * p.x * p.x + A := by
  simpa [lineNum, lineDen] using h.slope

/-- The denominator of a chord is invertible. -/
theorem PointSum.isUnit_sub {sl : ZMod m} (h : PointSum m A p q sl r) (hne : p ≠ q) :
    IsUnit (q.x - p.x : ZMod m) := by
  simpa [lineDen, hne] using h.isUnit_den

/-- Divisibility by `m` of a difference, in the ring of integers modulo `m`. -/
theorem dvd_sub_iff_zmod (a b : Int) : (m : Int) ∣ a - b ↔ (a : ZMod m) = b := by
  rw [← ZMod.intCast_zmod_eq_zero_iff_dvd, Int.cast_sub, sub_eq_zero]

end

/-- Settles O20, from the failure of the inverse function and the construction that a found point follows. -/
theorem paddFollowsChordAndTangent : Obligations.PaddFollowsChordAndTangent := by
  intro m A p q hm
  have hm0 : m ≠ 0 := Nat.one_le_iff_ne_zero.mp hm
  refine ⟨padd_eq_none_iff hm0, fun r hr => ?_⟩
  obtain ⟨sl, h⟩ := exists_pointSum_of_padd hm0 hr
  obtain ⟨k, rfl⟩ := ZMod.intCast_surjective sl
  refine ⟨h.x_lt, h.y_lt, k, ?_, ?_, ?_⟩ <;> rw [dvd_sub_iff_zmod]
  · exact (Int.cast_mul ..).trans h.slope
  · simpa using h.x_eq
  · simpa using h.y_eq

/-! ## The laws of point addition -/

/-- The chord from `q` to `p` is the chord from `p` to `q`. -/
theorem PointSum.swap {m A : Nat} {p q r : Point} {sl : ZMod m} (h : PointSum m A p q sl r) :
    PointSum m A q p sl r := by
  obtain rfl | hne := eq_or_ne p q
  · exact h
  have hden : lineDen q p = -lineDen p q := by simp [lineDen, hne, hne.symm]
  have hnum : lineNum A q p = -lineNum A p q := by simp [lineNum, hne, hne.symm]
  exact {
    x_lt := h.x_lt
    y_lt := h.y_lt
    isUnit_den := by simpa [hden] using h.isUnit_den
    slope := by simpa [hden, hnum] using h.slope
    x_eq := by linear_combination h.x_eq
    y_eq := by linear_combination h.y_eq - h.chord }

/-- Settles O26: both sums are the one point of the same line. -/
theorem paddIsSymmetric : Obligations.PaddIsSymmetric := by
  intro m A p q hm
  have hm0 : m ≠ 0 := Nat.one_le_iff_ne_zero.mp hm
  refine Option.ext fun r => ?_
  rw [padd_eq_some_iff hm0, padd_eq_some_iff hm0]
  exact exists_congr fun sl => ⟨.swap, .swap⟩

/-- The curve's equation in the ring of integers modulo `m`. -/
theorem onCurve_iff (m A b : Nat) (p : Point) :
    OnCurve m A b p ↔ (p.y * p.y : ZMod m) = p.x * p.x * p.x + A * p.x + b := by
  rw [OnCurve, ← ZMod.natCast_eq_natCast_iff']
  push_cast
  rfl

/-- A line of slope `s` through two points of the curve that meets it in them as a chord or a tangent does (`hmeets`: the
cubic for the line's points has the factors `x - x₁` and `x - x₂`) meets it again at the third point. -/
theorem thirdPoint_on_curve {R : Type} [CommRing R] {A b s x₁ y₁ x₂ y₂ x₃ y₃ : R}
    (h₁ : y₁ * y₁ = x₁ * x₁ * x₁ + A * x₁ + b) (hline : s * (x₂ - x₁) = y₂ - y₁)
    (hmeets : s * (y₁ + y₂) = x₁ * x₁ + x₁ * x₂ + x₂ * x₂ + A)
    (hx : x₃ = s * s - x₁ - x₂) (hy : y₃ = s * (x₁ - x₃) - y₁) :
    y₃ * y₃ = x₃ * x₃ * x₃ + A * x₃ + b := by
  subst hy hx
  linear_combination h₁ + (s * s - x₁ - x₂ - x₁) * (s * hline + hmeets)

/-- The line of a sum of two points of one curve meets the curve in them as a chord or a tangent does: for a chord the
difference of the two equations holds the factor `x₂ - x₁`, which cancels. -/
theorem PointSum.meets {m A b : Nat} {p q r : Point} {sl : ZMod m} (h : PointSum m A p q sl r)
    (hp : OnCurve m A b p) (hq : OnCurve m A b q) :
    sl * (p.y + q.y) = p.x * p.x + p.x * q.x + q.x * q.x + A := by
  obtain rfl | hne := eq_or_ne p q
  · linear_combination h.tangent
  · rw [onCurve_iff] at hp hq
    refine (h.isUnit_sub hne).mul_left_cancel ?_
    linear_combination (p.y + q.y : ZMod m) * h.chord + hq - hp

/-- Settles O25: the third point of the line lies on the curve, and mirroring keeps it there. -/
theorem paddStaysOnCurve : Obligations.PaddStaysOnCurve := by
  intro m A b p q r hm _ _ _ _ hp hq hr
  obtain ⟨sl, h⟩ := exists_pointSum_of_padd (Nat.one_le_iff_ne_zero.mp hm) hr
  exact (onCurve_iff m A b r).mpr
    (thirdPoint_on_curve ((onCurve_iff m A b p).mp hp) h.chord (h.meets hp hq) h.x_eq h.y_eq)

end Sys2Proof.Machine
end

section
namespace Sys2Proof.Machine

open Sys2Proof

/-! ## Scalar multiplication, read from the low bit up -/

/-- One round of the loop of 42_curve R145: double, then add `p` if the bit is 1; a failure is the failure of the round. -/
def doubleAdd (m A : Nat) (p : Point) (b : Bool) (acc : Point) : Option Point :=
  (padd m A acc acc).bind fun dbl => if b then padd m A dbl p else some dbl

section
variable {m A : Nat} {p : Point}

theorem doubleAdd_false : doubleAdd m A p false = fun acc => padd m A acc acc := by
  funext acc
  simp [doubleAdd]

theorem doubleAdd_true :
    doubleAdd m A p true = fun acc => (padd m A acc acc).bind fun dbl => padd m A dbl p := rfl

theorem scalarBit_eq_testBit (k i : Nat) : scalarBit k i = k.testBit i := by
  rw [Nat.testBit_eq_decide_div_mod_eq]
  rfl

theorem smulLoop_zero (m A k : Nat) (p : Point) : smulLoop m A k p 0 = some := rfl

/-- The loop, round by round. -/
theorem smulLoop_succ (m A k : Nat) (p : Point) (n : Nat) (acc : Point) :
    smulLoop m A k p (n + 1) acc = (doubleAdd m A p (k.testBit n) acc).bind (smulLoop m A k p n) := by
  rw [smulLoop, doubleAdd, scalarBit_eq_testBit]
  cases padd m A acc acc with
  | none => rfl
  | some dbl =>
    cases k.testBit n with
    | false => rfl
    | true => cases h : padd m A dbl p <;> simp [h]

/-- A further bit at the bottom of the scalar is a further round at the end of the loop. -/
theorem smulLoop_bit (m A : Nat) (b : Bool) (k : Nat) (p : Point) (n : Nat) (acc : Point) :
    smulLoop m A (Nat.bit b k) p (n + 1) acc = (smulLoop m A k p n acc).bind (doubleAdd m A p b) := by
  induction n generalizing acc with
  | zero =>
    rw [smulLoop_succ, Nat.testBit_bit_zero, smulLoop_zero, smulLoop_zero, Option.bind_some, Option.bind_fun_some]
  | succ n ih =>
    rw [smulLoop_succ, smulLoop_succ, Nat.testBit_bit_succ, Option.bind_assoc]
    simp only [ih]

theorem msb_bit (b : Bool) {k : Nat} (hk : k ≠ 0) : msb (Nat.bit b k) = msb k + 1 := by
  have h2 : 2 ≤ Nat.bit b k := by cases b <;> simp <;> omega
  rw [msb, Nat.log2_def, if_pos h2, Nat.bit_div_two, msb]

/-- A further bit at the bottom of a scalar is a further round (42_curve R145). -/
theorem smul_bit (m A : Nat) (p : Point) (b : Bool) {k : Nat} (hk : k ≠ 0) :
    smul m A p (Nat.bit b k) = (smul m A p k).bind (doubleAdd m A p b) := by
  rw [smul, if_neg (Nat.bit_ne_zero b hk), msb_bit b hk, smulLoop_bit, smul, if_neg hk]

theorem smul_zero : smul m A p 0 = none := rfl

theorem smul_one : smul m A p 1 = some p := rfl

theorem smul_two : smul m A p 2 = padd m A p p :=
  (smul_bit m A p false one_ne_zero).trans (by rw [smul_one, doubleAdd_false, Option.bind_some])

theorem smul_three : smul m A p 3 = (padd m A p p).bind fun dbl => padd m A dbl p :=
  (smul_bit m A p true one_ne_zero).trans (by rw [smul_one, doubleAdd_true, Option.bind_some])

end

/-- Settles O23, by the low bit of the scalar. -/
theorem smulIsDoubleAndAdd : Obligations.SmulIsDoubleAndAdd := by
  intro m A p
  refine ⟨smul_zero, smul_one, fun k hk => ⟨?_, ?_⟩⟩
  · rw [← doubleAdd_false (p := p)]
    exact smul_bit m A p false (Nat.one_le_iff_ne_zero.mp hk)
  · rw [Option.bind_assoc, ← doubleAdd_true]
    exact smul_bit m A p true (Nat.one_le_iff_ne_zero.mp hk)

/-! ## The size of the results -/

/-- Both coordinates are below `n`. -/
def Point.Below (n : Nat) (p : Point) : Prop := p.x < n ∧ p.y < n

theorem Point.Below.mono {n n' : Nat} {p : Point} (h : p.Below n) (hle : n ≤ n') : p.Below n' :=
  ⟨h.1.trans_le hle, h.2.trans_le hle⟩

section
variable {m A k : Nat} {p q r acc : Point}

/-- A sum is reduced. -/
theorem below_of_padd (hm : m ≠ 0) (h : padd m A p q = some r) : r.Below m := by
  obtain ⟨_, hsum⟩ := exists_pointSum_of_padd hm h
  exact ⟨hsum.x_lt, hsum.y_lt⟩

/-- A round ends with a sum, so its result is reduced. -/
theorem below_of_doubleAdd (hm : m ≠ 0) {b : Bool} (h : doubleAdd m A p b acc = some r) : r.Below m := by
  cases b with
  | false => exact below_of_padd hm (doubleAdd_false ▸ h)
  | true =>
    obtain ⟨dbl, -, hsum⟩ := Option.bind_eq_some_iff.mp (doubleAdd_true ▸ h)
    exact below_of_padd hm hsum

/-- The loop ends with the point it began with or with a reduced one. -/
theorem eq_or_below_of_smulLoop (hm : m ≠ 0) {n : Nat} (h : smulLoop m A k p n acc = some r) :
    r = acc ∨ r.Below m := by
  induction n generalizing acc with
  | zero => exact .inl (Option.some.inj h).symm
  | succ n ih =>
    rw [smulLoop_succ] at h
    obtain ⟨acc', hround, hrest⟩ := Option.bind_eq_some_iff.mp h
    obtain rfl | hlt := ih hrest
    · exact .inr (below_of_doubleAdd hm hround)
    · exact .inr hlt

/-- A multiple is the point itself, raw, or reduced. -/
theorem eq_or_below_of_smul (hm : m ≠ 0) (h : smul m A p k = some r) : r = p ∨ r.Below m := by
  obtain rfl | hk := eq_or_ne k 0
  · cases h
  · exact eq_or_below_of_smulLoop hm ((if_neg hk).symm.trans h)

end

/-! ## When a sum does not exist, for a prime modulus and for modulus 1 -/

/-- For a prime modulus a sum fails exactly when the denominator is 0 modulo it. -/
theorem padd_eq_none_iff_of_prime {m : Nat} (hm : m.Prime) (A : Nat) (p q : Point) :
    padd m A p q = none ↔ (m : Int) ∣ lineDen p q := by
  rw [padd_eq_none_iff hm.ne_zero, Int.gcd_comm, Int.gcd_eq_natAbs_gcd_natAbs, Int.natAbs_natCast]
  exact hm.coprime_iff_not_dvd.not_left.trans Int.natCast_dvd.symm

/-- The denominator is 0 modulo `m` for points with congruent first coordinates, and for a double where `2 y` is 0. -/
theorem dvd_lineDen_iff (m : Nat) (p q : Point) :
    (m : Int) ∣ lineDen p q ↔ p ≠ q ∧ p.x % m = q.x % m ∨ p = q ∧ 2 * p.y % m = 0 := by
  obtain rfl | hne := eq_or_ne p q
  · have hcast : (m : Int) ∣ 2 * p.y ↔ m ∣ 2 * p.y := by norm_cast
    simp [lineDen, hcast, Nat.dvd_iff_mod_eq_zero]
  · simpa [lineDen, hne, Nat.ModEq] using Nat.modEq_iff_dvd.symm

/-- Modulo 1 every sum exists and is (0, 0), the only reduced point. -/
theorem padd_one (A : Nat) (p q : Point) : padd 1 A p q = some ⟨0, 0⟩ := by
  have hsome : padd 1 A p q ≠ none := fun h => (padd_eq_none_iff one_ne_zero).mp h (by simp)
  obtain ⟨⟨x, y⟩, hr⟩ := Option.ne_none_iff_exists'.mp hsome
  obtain ⟨hx, hy⟩ := below_of_padd one_ne_zero hr
  cases Nat.lt_one_iff.mp hx
  cases Nat.lt_one_iff.mp hy
  exact hr

end Sys2Proof.Machine
end

section
namespace Sys2Proof.Machine

open Sys2Proof

/-! ## How each curve command ends, case by case -/

/-- A point completes a curve command with both registers of the destination pair written, if its coordinates fit. -/
theorem finishPoint_some {rd : RegIdx} {r : Point} {s : State} (hr : r.Below (2 ^ (32 * s.limbs))) :
    ∃ t, finishPoint rd (some r) s = .next t ∧ t.regVal rd = r.x ∧ t.regVal (rd + 1) = r.y ∧
      Succeeds [rd, rd + 1] s t :=
  succeed_two (pairHigh_ne rd) hr.1 hr.2

/-- No point completes a curve command with NOPOINT. -/
theorem finishPoint_none (rd : RegIdx) (s : State) :
    ∃ t, finishPoint rd none s = .next t ∧ FailsWith .nopoint s t :=
  fail_spec .nopoint s

section
variable {rd rs1 rs2 : RegIdx} {s : State}

theorem wf_padd_iff :
    (Instr.padd rd rs1 rs2).wf = true ↔ rd.val % 2 = 0 ∧ rs1.val % 2 = 0 ∧ rs2.val % 2 = 0 := by
  simp [Instr.wf, and_assoc]

theorem wf_pdbl_iff : (Instr.pdbl rd rs1).wf = true ↔ rd.val % 2 = 0 ∧ rs1.val % 2 = 0 := by
  simp [Instr.wf]

theorem wf_pmul_iff : (Instr.pmul rd rs1 rs2).wf = true ↔ rd.val % 2 = 0 ∧ rs1.val % 2 = 0 := by
  simp [Instr.wf]

/-- With a modulus PADD ends with the sum of the two points. -/
theorem exec_padd_of_ne_zero (hw : (Instr.padd rd rs1 rs2).wf = true) (hm : s.modVal ≠ 0) :
    exec (.padd rd rs1 rs2) s = finishPoint rd (padd s.modVal s.caVal (s.point rs1) (s.point rs2)) s :=
  (if_neg (by simp [hw])).trans (if_neg hm)

/-- PDBL ends as PADD of the point and itself, errors included (42_curve R143). -/
theorem exec_pdbl_eq_padd (rd rs1 : RegIdx) (s : State) : exec (.pdbl rd rs1) s = exec (.padd rd rs1 rs1) s := by
  have hw : (Instr.padd rd rs1 rs1).wf = (Instr.pdbl rd rs1).wf := by simp [Instr.wf]
  simp only [exec, execPadd, execPdbl, hw]

/-- With a modulus PMUL ends with the multiple of the point. -/
theorem exec_pmul_of_ne_zero (hw : (Instr.pmul rd rs1 rs2).wf = true) (hm : s.modVal ≠ 0) :
    exec (.pmul rd rs1 rs2) s = finishPoint rd (smul s.modVal s.caVal (s.point rs1) (s.regVal rs2)) s :=
  (if_neg (by simp [hw])).trans (if_neg hm)

/-- A point in a register pair has coordinates that fit a register. -/
theorem Shaped.below_point (hs : Shaped s) (i : RegIdx) : (s.point i).Below (2 ^ (32 * s.limbs)) :=
  ⟨hs.regVal_lt i, hs.regVal_lt (pairHigh i)⟩

end

/-! ## Curve words that are illegal -/

/-- The word of a curve command that is not well formed is illegal for its odd point field (30_encoding R83). -/
theorem decode_encode_curve_odd {i : Instr} (hcurve : i.usesCa = true) (hw : ¬i.wf = true) :
    decode (encode i) = .error .oddPointField := by
  rw [decode_encode]
  cases i with
  | add | sub | mul | mulw | divrem | radd | rsub | rmul | rinv => cases hcurve
  | padd | pdbl | pmul => exact if_neg hw

/-- A PADD word with a nonzero rx field is illegal (30_encoding R86). -/
theorem decode_padd_rx {rd rs1 rs2 rx : RegIdx} (h : rx ≠ 0) :
    decode (assemble ⟨0x20, rd, rs1, rs2, rx, 0⟩) = .error .mustBeZero := by
  have hzero : byOpcode ⟨0x20, rd, rs1, rs2, rx, 0⟩ = requireZero [rx] (.padd rd rs1 rs2) := rfl
  have hrefused : requireZero [rx] (.padd rd rs1 rs2) = .error .mustBeZero := if_neg (by simpa using h)
  rw [decode_assemble, hzero, hrefused]
  rfl

/-! ## The results of the curve commands -/

/-- Settles O21, by whether MOD is 0 and whether the sum exists. -/
theorem paddWritesPointOrNopoint : Obligations.PaddWritesPointOrNopoint := by
  intro rd rs1 rs2 s hs
  refine ⟨fun hrd h1 h2 => ?_, fun hodd => ?_, fun _ => decode_padd_rx, fun m A p q hm hprime => ?_, padd_one⟩
  · have hw : (Instr.padd rd rs1 rs2).wf = true := wf_padd_iff.mpr ⟨hrd, h1, h2⟩
    refine ⟨decodeOfEncodeIsTheCommand (.padd rd rs1 rs2) hw, fun r hm hr => ?_, fun hm hr => ?_,
      zeroModulusRaisesDivzero (.padd rd rs1 rs2) s hw rfl⟩
    · obtain ⟨t, ht, hpoint⟩ := finishPoint_some (rd := rd) ((below_of_padd hm hr).mono hs.modVal_lt.le)
      exact ⟨t, (exec_padd_of_ne_zero hw hm).trans (hr ▸ ht), hpoint⟩
    · obtain ⟨t, ht, hfail⟩ := finishPoint_none rd s
      exact ⟨t, (exec_padd_of_ne_zero hw hm).trans (hr ▸ ht), hfail⟩
  · exact decode_encode_curve_odd (i := .padd rd rs1 rs2) rfl (by rw [wf_padd_iff]; omega)
  · have hp : m.Prime := Nat.prime_def.mpr ⟨by omega, hprime⟩
    exact (padd_eq_none_iff_of_prime hp A p q).trans (dvd_lineDen_iff m p q)

/-- A double fails exactly when `2 y` is not coprime to `m` (42_curve R143). -/
theorem padd_self_eq_none_iff {m : Nat} (hm : m ≠ 0) (A : Nat) (p : Point) :
    padd m A p p = none ↔ Nat.gcd (2 * p.y) m ≠ 1 := by
  rw [padd_eq_none_iff hm, lineDen, if_pos rfl, ← Int.gcd_natCast_natCast]
  simp

/-- Settles O22, each outcome from that of PADD of the point and itself. -/
theorem pdblWritesDoubleOrNopoint : Obligations.PdblWritesDoubleOrNopoint := by
  intro rd rs1 s hs
  refine ⟨fun hrd h1 => ?_, fun hodd =>
    decode_encode_curve_odd (i := .pdbl rd rs1) rfl (by rw [wf_pdbl_iff]; omega)⟩
  obtain ⟨hpadd, -⟩ := paddWritesPointOrNopoint rd rs1 rs1 s hs
  obtain ⟨-, hpoint, hnopoint, hdivzero⟩ := hpadd hrd h1 h1
  rw [exec_pdbl_eq_padd]
  exact ⟨decodeOfEncodeIsTheCommand (.pdbl rd rs1) (wf_pdbl_iff.mpr ⟨hrd, h1⟩), hpoint,
    fun hm hgcd => hnopoint hm ((padd_self_eq_none_iff hm _ _).mpr hgcd), hdivzero, rfl⟩

/-- Settles O24, by whether MOD is 0 and whether the multiple exists. -/
theorem pmulWritesMultipleOrNopoint : Obligations.PmulWritesMultipleOrNopoint := by
  intro rd rs1 rs2 s hs
  refine ⟨fun hrd h1 => ?_, fun hodd =>
    decode_encode_curve_odd (i := .pmul rd rs1 rs2) rfl (by rw [wf_pmul_iff]; omega)⟩
  have hw : (Instr.pmul rd rs1 rs2).wf = true := wf_pmul_iff.mpr ⟨hrd, h1⟩
  have hpoint : ∀ r, s.modVal ≠ 0 → smul s.modVal s.caVal (s.point rs1) (s.regVal rs2) = some r →
      ∃ t, exec (.pmul rd rs1 rs2) s = .next t ∧ t.regVal rd = r.x ∧ t.regVal (rd + 1) = r.y ∧
        Succeeds [rd, rd + 1] s t := by
    intro r hm hr
    have hfits : r.Below (2 ^ (32 * s.limbs)) := by
      obtain rfl | hlt := eq_or_below_of_smul hm hr
      · exact hs.below_point rs1
      · exact hlt.mono hs.modVal_lt.le
    obtain ⟨t, ht, hwritten⟩ := finishPoint_some (rd := rd) hfits
    exact ⟨t, (exec_pmul_of_ne_zero hw hm).trans (hr ▸ ht), hwritten⟩
  refine ⟨decodeOfEncodeIsTheCommand (.pmul rd rs1 rs2) hw, hpoint,
    fun hm hk => hpoint (s.point rs1) hm (hk ▸ smul_one), fun hm hnone => ?_,
    zeroModulusRaisesDivzero (.pmul rd rs1 rs2) s hw rfl⟩
  have hr : smul s.modVal s.caVal (s.point rs1) (s.regVal rs2) = none :=
    hnone.elim (fun hk => hk ▸ smul_zero) id
  obtain ⟨t, ht, hfail⟩ := finishPoint_none rd s
  exact ⟨t, (exec_pmul_of_ne_zero hw hm).trans (hr ▸ ht), hfail⟩

/-- Settles O27: the loop has one round for the scalars 2 and 3. -/
theorem pmulByTwoAndThreeAgreeWithPadd : Obligations.PmulByTwoAndThreeAgreeWithPadd := by
  intro rd rs1 rs2 s hrd h1
  have hw : (Instr.pmul rd rs1 rs2).wf = true := wf_pmul_iff.mpr ⟨hrd, h1⟩
  have hw' : (Instr.padd rd rs1 rs1).wf = true := wf_padd_iff.mpr ⟨hrd, h1, h1⟩
  refine ⟨fun hk => ?_, fun hm hk => ?_⟩
  · obtain hm | hm := eq_or_ne s.modVal 0
    · rw [exec_of_modVal_zero hw rfl hm, exec_of_modVal_zero hw' rfl hm]
    · rw [exec_pmul_of_ne_zero hw hm, exec_padd_of_ne_zero hw' hm, hk, smul_two]
  · rw [exec_pmul_of_ne_zero hw hm, hk, smul_three]

end Sys2Proof.Machine
end

section
namespace Sys2Proof.Machine

open Sys2Proof

/-- Settles O28, by what each command's checks lead to. -/
theorem commandsArePrecise : Obligations.CommandsArePrecise := fun _ s hw => exec_completesFrom hw s

/-! ## The recorded error -/

/-- From `s` to `t` the recorded error stayed as it was. -/
structure SameErrorRecord (s t : State) : Prop where
  err : t.err = s.err
  errcode : t.errcode = s.errcode
  errcmd : t.errcmd = s.errcmd

section
variable {s t : State}

theorem SameErrorRecord.refl (s : State) : SameErrorRecord s s := ⟨rfl, rfl, rfl⟩

theorem SameErrorRecord.of_drawn (h : SameErrorRecord s.drawn t) : SameErrorRecord s t :=
  ⟨h.err.trans s.drawn_err, h.errcode.trans s.drawn_errcode, h.errcmd.trans s.drawn_errcmd⟩

/-- Whether the recorded error is explained depends on the record only. -/
theorem ErrorExplained.congr (h : ErrorExplained s) (hst : SameErrorRecord s t) : ErrorExplained t := by
  unfold ErrorExplained
  rw [hst.err, hst.errcode, hst.errcmd]
  exact h

theorem errorExplained_of_noErr (h : t.err = false) : ErrorExplained t := fun he => nomatch h.symm.trans he

/-- ILLEGAL explains an illegal word. -/
theorem errorExplained_of_illegal {e : Illegal} (hd : decode t.errcmd = .error e) (hc : t.errcode = .illegal) :
    ErrorExplained t := fun _ => by
  rw [hd]
  exact hc

/-- A code of its row explains a legal word. -/
theorem errorExplained_of_legal {i : Instr} (hd : decode t.errcmd = .ok i) (hc : t.errcode ∈ i.errCodes) :
    ErrorExplained t := fun _ => by
  rw [hd]
  exact hc

/-- The engine's step keeps the record, or enters an error that the pending word can raise
(60_exceptions R162, R163). -/
theorem engineStep_error (h : engineStep s = .next t) :
    SameErrorRecord s t ∨ ErrorExplained t ∧ ∃ c, FailsWith c s t := by
  obtain ⟨e, hd, hill⟩ | ⟨i, hd, hw, hex⟩ := engineStep_eq s
  · have hf := failsWith_of_fail (hill ▸ h)
    exact .inr ⟨errorExplained_of_illegal (hf.errcmd ▸ hd) hf.errcode, _, hf⟩
  · obtain ⟨u, hu, hs | ⟨c, hc, hf⟩⟩ := exec_completesFrom hw s <;> cases h.symm.trans (hex.trans hu)
    · exact .inl ⟨hs.err, hs.errcode, hs.errcmd⟩
    · exact .inr ⟨errorExplained_of_legal (hf.errcmd ▸ hd) (hf.errcode ▸ hc), c, hf⟩

/-- A write to a location keeps the record or clears ERR: a write to STATUS as an error return, one to
CTRL as a soft reset. -/
theorem writeLoc_error (l : Loc) (d : Word) (s : State) :
    SameErrorRecord s (s.writeLoc l d) ∨ (s.writeLoc l d).err = false := by
  cases l with
  | id | param | errcmd => exact .inl (.refl s)
  | ctrl =>
    simp only [State.writeLoc, State.writeCtrl]
    split
    · exact .inr rfl
    · exact .inl ⟨rfl, rfl, rfl⟩
  | status =>
    simp only [State.writeLoc, State.writeStatus]
    split <;> split
    · exact .inr rfl
    · exact .inl ⟨rfl, rfl, rfl⟩
    · exact .inr rfl
    · exact .inl ⟨rfl, rfl, rfl⟩
  | cmd =>
    simp only [State.writeLoc, State.accept]
    split <;> exact .inl ⟨rfl, rfl, rfl⟩
  | limb w _ => cases w <;> exact .inl ⟨rfl, rfl, rfl⟩

/-- The reset input keeps the record or clears ERR. -/
theorem driveRst_error (level : Bool) (s : State) :
    SameErrorRecord s (s.driveRst level) ∨ (s.driveRst level).err = false := by
  unfold State.driveRst
  split
  · exact .inl (.refl s)
  · exact .inr rfl

/-- The outside world's step keeps the record or clears ERR. -/
theorem hostStep_error (h : hostStep s = .next t) : SameErrorRecord s t ∨ t.err = false := by
  obtain rfl | ⟨level, _, -, rfl⟩ | ⟨_, _, _, _, -, -, -, rfl⟩ | ⟨_, _, d, l, _, -, -, -, -, rfl⟩ := hostStep_cases h
  · exact .inl (.refl _)
  · exact (driveRst_error level s.popInput).imp_left fun ⟨he, hec, hem⟩ => ⟨he, hec, hem⟩
  · exact .inl ⟨rfl, rfl, rfl⟩
  · exact (writeLoc_error l d s).imp_left fun ⟨he, hec, hem⟩ => ⟨he, hec, hem⟩

/-- What a step can do to the record: keep it, clear ERR, or, as the engine's step, enter an error that the pending word
can raise. -/
theorem step_error (h : step s = .next t) :
    SameErrorRecord s t ∨ t.err = false ∨ s.engineMoves ∧ ErrorExplained t ∧ ∃ c, FailsWith c s.drawn t := by
  obtain ⟨hm, hs⟩ | ⟨-, hs⟩ | ⟨-, -, hs⟩ := step_cases s <;> rw [hs] at h
  · exact (engineStep_error h).imp .of_drawn fun hf => .inr ⟨hm, hf⟩
  · exact (hostStep_error h).imp .of_drawn .inl
  · cases h
    exact .inl (.refl s)

end

/-- Settles O54, by what a step can do to the recorded error. -/
theorem stepKeepsErrorExplained : Obligations.StepKeepsErrorExplained := by
  intro s t hs h
  obtain hsame | hclear | ⟨-, ht, -⟩ := step_error h
  · exact hs.congr hsame
  · exact errorExplained_of_noErr hclear
  · exact ht

/-- Settles O34: of the things a step can do to the recorded error only the engine's sets ERR. -/
theorem onlyEngineSetsErr : Obligations.OnlyEngineSetsErr := by
  intro s t h hs ht
  obtain hsame | hclear | ⟨hm, -, c, hf⟩ := step_error h
  · exact nomatch hs.symm.trans (hsame.err.symm.trans ht)
  · exact nomatch hclear.symm.trans ht
  · exact ⟨hm, hf.errcmd.trans s.drawn_pend, hf.completed.busy, hf.completed.done,
      hf.context.inputs.trans s.drawn_inputs⟩

/-! ## The error return -/

/-- With nothing pending a write to STATUS that clears the error is performed at once (60_exceptions R167). -/
theorem step_clearError {s : State} {d : Word} {rest : List Input} (hr : s.rstN = true) (hb : s.busy = false)
    (hd : d[2] = true) (hi : s.inputs = .write 0x000C#16 .four d :: rest) :
    step s = .next { s with
      inputs := rest, responses := s.responses ++ [.ok]
      err := false, errcode := .none, errcmd := 0#32, done := s.done && !d[1] } := by
  obtain ⟨-, -, -, hstatus, -⟩ := controlWrites s d
  rw [step_transaction_of_idle hr hb (.inr ⟨hi, hstatus⟩)]
  simp [hd]

/-- Settles O44: the STATUS write clears the record, and the CMD write then finds no error. -/
theorem errorReturn : Obligations.ErrorReturn := by
  intro s d c rest hr hb _ hd hi
  have hclear := step_clearError hr hb hd hi
  refine ⟨⟨_, hclear, rfl, rfl, rfl, rfl, rfl, rfl, rfl, rfl⟩, ?_⟩
  refine (run_succ hclear).trans ((run_succ ?_).trans (run_zero _))
  exact Eq.trans (step_accept hr hb rfl rfl) (by simp)

/-! ## The idle step -/

/-- Settles O51: neither agent can move. -/
theorem idleKeepsState : Obligations.IdleKeepsState := by
  intro s hb hi
  obtain ⟨⟨hbusy, -⟩, -⟩ | ⟨⟨hready, -⟩, -⟩ | ⟨-, -, hs⟩ := step_cases s
  · exact nomatch hb.symm.trans hbusy
  · simp [State.hostReady, hi] at hready
  · exact hs

end Sys2Proof.Machine
end

section
namespace Sys2Proof.Machine

open Sys2Proof

/-! ## The reset state -/

/-- What a reset leads to is the reset state of 70_reset_and_hazards R192, at either level of the reset input. -/
theorem inResetState_toReset (s : State) (level : Bool) : InResetState { s.toReset with rstN := level } where
  regs j := s.toReset_reg j
  mod := rfl
  ca := rfl
  pend := rfl
  ie := rfl
  busy := rfl
  done := rfl
  err := rfl
  errcode := rfl
  errcmd := rfl
  irq := rfl

/-- The reset state of any size is what a reset from it leads to. -/
theorem resetOf_eq_toReset (n : Nat) : State.resetOf n = { (State.resetOf n).toReset with rstN := true } := rfl

theorem inResetState_resetOf (n : Nat) : InResetState (State.resetOf n) :=
  resetOf_eq_toReset n ▸ inResetState_toReset _ true

/-- Settles O48: PARAM is the only row that depends on LIMBS. -/
theorem resetState : Obligations.ResetState :=
  ⟨fun n hn => ⟨inResetState_resetOf n, rfl, rfl, State.paramWord_eq (s := State.resetOf n) hn⟩,
    inResetState_resetOf Config.limbs⟩

theorem stateInv_resetOf {n : Nat} (hmin : Config.minLimbs ≤ n) (hmax : n ≤ Config.maxLimbs) :
    StateInv (State.resetOf n) :=
  resetOf_eq_toReset n ▸ StateInv.toReset (s := State.resetOf n) hmin hmax true

/-- Settles O52: the size of `State.reset` is one of those in range. -/
theorem resetMeetsInvariant : Obligations.ResetMeetsInvariant :=
  ⟨fun _ hmin hmax => stateInv_resetOf hmin hmax, stateInv_resetOf (by decide) (by decide)⟩

/-! ## The soft reset -/

/-- A write to CTRL with SRST (70_reset_and_hazards R191). -/
theorem State.writeCtrl_of_srst {d : Word} (h : d[0] = true) (s : State) : s.writeCtrl d = s.toReset := by
  simp [State.writeCtrl, h]

/-- Settles O49: CTRL is never held, and a write to it with SRST is a reset. -/
theorem softReset : Obligations.SoftReset := by
  intro s d h0
  obtain ⟨-, -, hctrl, -⟩ := target_control s.limbs
  have hwrite : busWrite 0x0008#16 .four d s = .done .ok (s.writeCtrl d) := busWrite_of_target hctrl d
  exact ⟨s.toReset, State.writeCtrl_of_srst h0 s ▸ hwrite, inResetState_toReset s s.rstN, rfl, rfl, rfl, rfl⟩

/-! ## The reset input -/

section
variable {s : State} {x : Input} {level : Bool} {rest : List Input}

/-- A level that is 0, or that was 0 before, leads to the reset state (70_reset_and_hazards R190). -/
theorem State.driveRst_of_reset (h : (level && s.rstN) = false) :
    s.driveRst level = { s.toReset with rstN := level } := by
  simp [State.driveRst, h]

/-- While `rst_n` = 0 the engine cannot move and no transaction waits, so the host moves with any input. -/
theorem hostMoves_of_inReset (hr : s.rstN = false) (hi : s.inputs = x :: rest) : s.hostMoves :=
  ⟨by simp [State.hostReady, hi, hr], by simp [State.engineReady, hr]⟩

/-- When the host moves with a level of the reset input next, the step drives it. -/
theorem step_rst (hm : s.hostMoves) (hi : s.inputs = .rst level :: rest) :
    step s = .next (s.drawn.popInput.driveRst level) := by
  rw [step_of_hostMoves hm]
  simp [hostStep, hi]

theorem step_rst_inResetState (hm : s.hostMoves) (hi : s.inputs = .rst level :: rest)
    (h : (level && s.rstN) = false) :
    ∃ t, step s = .next t ∧ InResetState t ∧ t.limbs = s.limbs ∧ t.rstN = level ∧ t.inputs = rest := by
  have hdrive := State.driveRst_of_reset (s := s.drawn.popInput) (level := level) (by simpa using h)
  exact ⟨_, hdrive ▸ step_rst hm hi, inResetState_toReset _ level, by simp, rfl, by simp [hi]⟩

/-- A transaction while `rst_n` = 0 is refused (log entry 6). -/
theorem step_transaction_inReset {a : Addr} {z : Size} (hr : s.rstN = false) (hx : x.Accesses a z)
    (hi : s.inputs = x :: rest) : step s = .refused .transactionDuringReset := by
  rw [step_of_hostMoves (hostMoves_of_inReset hr hi)]
  cases hx <;> simp [hostStep, hi, hr]

end

/-- Settles O50: the two edges of `rst_n`, and the refusal between them. -/
theorem hardwareReset : Obligations.HardwareReset :=
  ⟨fun _ _ hm hi => step_rst_inResetState hm hi rfl,
    fun _ _ hr hi => step_rst_inResetState (hostMoves_of_inReset hr hi) hi hr,
    fun _ _ _ d _ hr hi => hi.elim (step_transaction_inReset hr .read) (step_transaction_inReset hr (.write d))⟩

end Sys2Proof.Machine
end

section
namespace Sys2Proof.Machine

open Sys2Proof

/-! ## A pending command while the host moves -/

/-- From `s` to `t` the command, its operands and what lets the engine take it stayed as they were. -/
structure KeepsCommand (s t : State) : Prop where
  limbs : t.limbs = s.limbs
  busy : t.busy = s.busy
  rstN : t.rstN = s.rstN
  pend : t.pend = s.pend
  regs : t.regs = s.regs
  mod : t.mod = s.mod
  ca : t.ca = s.ca

section
variable {s t u : State} {a : Addr} {z : Size} {x : Input} {rest : List Input} {l : Loc}

theorem KeepsCommand.refl (s : State) : KeepsCommand s s := ⟨rfl, rfl, rfl, rfl, rfl, rfl, rfl⟩

theorem KeepsCommand.trans (h : KeepsCommand s t) (h' : KeepsCommand t u) : KeepsCommand s u :=
  ⟨h'.limbs.trans h.limbs, h'.busy.trans h.busy, h'.rstN.trans h.rstN, h'.pend.trans h.pend, h'.regs.trans h.regs,
    h'.mod.trans h.mod, h'.ca.trans h.ca⟩

/-- The locations that are written while a command is pending hold no part of it; CTRL does with a soft reset only
(20_memory R60). -/
theorem keepsCommand_writeLoc {d : Word} (hl : l.isHeld = false) (hctrl : l = .ctrl → d[0] = false) (s : State) :
    KeepsCommand s (s.writeLoc l d) := by
  cases l with
  | id | param | errcmd => exact .refl s
  | ctrl =>
    simp only [State.writeLoc, State.writeCtrl_of_not_srst (hctrl rfl)]
    exact ⟨rfl, rfl, rfl, rfl, rfl, rfl, rfl⟩
  | status =>
    simp only [State.writeLoc, State.writeStatus_eq]
    exact ⟨rfl, rfl, rfl, rfl, rfl, rfl, rfl⟩
  | cmd | limb => cases hl

/-- Whether an input is good depends on LIMBS only. -/
theorem goodInput_congr (h : t.limbs = s.limbs) (x : Input) : t.goodInput x ↔ s.goodInput x := by
  cases x <;> simp [State.goodInput, h]

/-- With a command pending, a transaction that does not wait is at a location that is not held (20_memory R60). -/
theorem isHeld_of_hostReady (hh : s.hostReady = true) (hb : s.busy = true) (hr : s.rstN = true) (hx : x.Accesses a z)
    (hi : s.inputs = x :: rest) (ht : target s.limbs a z = some l) : l.isHeld = false := by
  simpa [hostReady_of_accesses hx hi hr, holds_of_target ht, hb] using hh

/-- A good input that comes before the engine step leaves the command as it is, and one less may follow. -/
theorem step_goodInput (hm : s.hostMoves) (hb : s.busy = true) (hr : s.rstN = true) (hi : s.inputs = x :: rest)
    (hx : s.goodInput x) :
    ∃ t, step s = .next t ∧ KeepsCommand s t ∧ t.inputs = rest ∧ t.delay + 1 = s.delay := by
  have he : s.engineReady = true := by simp [State.engineReady, hb, hr]
  have hdraw : s.drawn = s.countDown := drawn_of_hostMoves hm he
  have hdelay : s.delay - 1 + 1 = s.delay := Nat.sub_one_add_one (hm.2 he)
  cases x with
  | read a z =>
    obtain ⟨l, ht⟩ := Option.isSome_iff_exists.mp hx
    have hl := isHeld_of_hostReady hm.1 hb hr .read hi ht
    have hread : busRead a z s.drawn = .done (.data (s.countDown.readLoc l)) s.countDown := by
      rw [hdraw, busRead_of_target (s := s.countDown) ht, hl]
      rfl
    have hstep := hostStepPerformsTransaction s _ _ a z 0#32 rest hm hr (.inl ⟨hi, hread⟩)
    exact ⟨_, hstep, ⟨rfl, rfl, rfl, rfl, rfl, rfl, rfl⟩, rfl, hdelay⟩
  | write a z d =>
    obtain ⟨hmapped, hctrl⟩ := hx
    obtain ⟨l, ht⟩ := Option.isSome_iff_exists.mp hmapped
    have hl := isHeld_of_hostReady hm.1 hb hr (.write d) hi ht
    have hwrite : busWrite a z d s.drawn = .done .ok (s.countDown.writeLoc l d) := by
      rw [hdraw, busWrite_of_target (s := s.countDown) ht, hl]
      rfl
    have hstep := hostStepPerformsTransaction s _ _ a z d rest hm hr (.inr ⟨hi, hwrite⟩)
    have hk := keepsCommand_writeLoc hl (fun h => hctrl (h ▸ ht)) s.countDown
    obtain ⟨-, -, -, -, hd, -⟩ := writeLoc_env l d s.countDown
    exact ⟨_, hstep, ⟨hk.limbs, hk.busy, hk.rstN, hk.pend, hk.regs, hk.mod, hk.ca⟩, rfl,
      (congrArg (· + 1) hd).trans hdelay⟩
  | rst level => exact hx.elim

/-- With a command pending and `rst_n` = 1 one of the agents moves. -/
theorem engineMoves_or_hostMoves (hb : s.busy = true) (hr : s.rstN = true) : s.engineMoves ∨ s.hostMoves := by
  obtain ⟨hm, -⟩ | ⟨hm, -⟩ | ⟨he, -⟩ := step_cases s
  · exact .inl hm
  · exact .inr hm
  · simp [State.engineReady, hb, hr] at he

end

/-- From `s` the engine's move is reached, the command as it was, after at most as many steps as the delay says and as
there are inputs (70_reset_and_hazards R204). -/
def ReachesEngineMove (s : State) : Prop :=
  ∃ k ≤ s.delay, k ≤ s.inputs.length ∧
    ∃ u, Host.Core.run Sys2Proof.core k s = .next u ∧ u.engineMoves ∧ KeepsCommand s u

theorem reachesEngineMove_now {s : State} (hm : s.engineMoves) : ReachesEngineMove s :=
  ⟨0, Nat.zero_le _, Nat.zero_le _, s, run_zero s, hm, .refl s⟩

/-- By induction on the inputs: each that comes before the engine step is one less, and counts the delay down. -/
theorem reachesEngineMove {s : State} (hb : s.busy = true) (hr : s.rstN = true)
    (hgood : ∀ x ∈ s.inputs, s.goodInput x) : ReachesEngineMove s := by
  induction hi : s.inputs generalizing s with
  | nil => exact reachesEngineMove_now ⟨hb, hr, by simp [State.hostReady, hi]⟩
  | cons x rest ih =>
    obtain hm | hm := engineMoves_or_hostMoves hb hr
    · exact reachesEngineMove_now hm
    · rw [hi, List.forall_mem_cons] at hgood
      obtain ⟨hx, hrest⟩ := hgood
      obtain ⟨t, hstep, hkeep, hinputs, hdelay⟩ := step_goodInput hm hb hr hi hx
      have hgood' : ∀ y ∈ t.inputs, t.goodInput y := fun y hy =>
        (goodInput_congr hkeep.limbs y).mpr (hrest y (hinputs ▸ hy))
      obtain ⟨k, hkd, hki, u, hrun, hu, hkeep'⟩ :=
        ih (hkeep.busy.trans hb) (hkeep.rstN.trans hr) hgood' hinputs
      have hlength : s.inputs.length = t.inputs.length + 1 := by rw [hi, hinputs, List.length_cons]
      exact ⟨k + 1, by omega, by omega, u, (run_succ hstep).trans hrun, hu, hkeep.trans hkeep'⟩

/-- Settles O35: once the engine moves, its step completes the command. -/
theorem pendingCommandIsTaken : Obligations.PendingCommandIsTaken := by
  intro s hb hr hgood
  obtain ⟨k, hkd, hki, u, hrun, hu, hkeep⟩ := reachesEngineMove hb hr hgood
  obtain ⟨t, ht, hc, -⟩ := engineStep_completes u.drawn
  exact ⟨k, hkd, hki, u, t, hrun, hu, hkeep.pend, hkeep.regs, hkeep.mod, hkeep.ca,
    (step_of_engineMoves hu).trans ht, hc⟩

end Sys2Proof.Machine
end
